-- ==== Sys2Proof/Word.lean ====
section
/-! DEFINITION. The word types of the L3 back-end: widths the spec fixes, nothing computed. -/

namespace Sys2Proof

/-- A register or command word: 32 bits (10_state.md section 2, 30_encoding.md R80). -/
abbrev Word := BitVec 32

/-- One byte of a RAM (10_state.md R33, R35). -/
abbrev Byte := BitVec 8

/-- A 16-bit cell: an `ISI` line (10_state.md R36) or a `PCM` sample (10_state.md R37). -/
abbrev Half := BitVec 16

/-- An offset of the 64 KiB host address space (20_memory.md R65). -/
abbrev Offset := BitVec 16

end Sys2Proof
end

