-- ==== Sys2Proof/Syntax.lean ====
section
/-! DEFINITION. The commands of L3BE-CMD v1 as syntax (30_encoding.md R80, R83): one constructor per opcode row. -/

namespace Sys2Proof

/-- A channel index (10_state.md R21): 0 is left, or the only channel of a mono stream; 1 is right. -/
inductive Ch where
  | c0
  | c1
deriving DecidableEq, Repr

/-- The commands. A per-channel command carries the `ALL` and `CH` fields of format C (30_encoding.md R80); HUFF carries
only `CH`, its `ALL` being illegal; a channel-free command carries neither (30_encoding.md R82). -/
inductive Instr where
  | nop
  | clearhist (all : Bool) (ch : Ch)
  | huff (ch : Ch)
  | requant (all : Bool) (ch : Ch)
  | reorder (all : Bool) (ch : Ch)
  | stereo
  | antialias (all : Bool) (ch : Ch)
  | imdct (all : Bool) (ch : Ch)
  | freqinv (all : Bool) (ch : Ch)
  | synth (all : Bool) (ch : Ch)
  | silence
  | backend
deriving DecidableEq, Repr

end Sys2Proof
end

