-- ==== Sys2Proof/WellFormed.lean ====
section
/-! DEFINITION. Which terms of Instr the encoding admits, whatever the state (30_encoding.md R82). The part of R82 that
depends on the stream (a channel-1 operand while `nch = 1`) is checked when the command runs. -/

namespace Sys2Proof

/-- "a per-channel command with `ALL = 1` and `CH = 1`" is illegal (30_encoding.md R82). -/
def channelOperandOk (all : Bool) (ch : Ch) : Bool := !(all && decide (ch = .c1))

/-- The state-independent legality of a command (30_encoding.md R82). -/
def Instr.wellFormed : Instr → Bool
  | .nop => true
  | .clearhist all ch => channelOperandOk all ch
  | .huff _ => true
  | .requant all ch => channelOperandOk all ch
  | .reorder all ch => channelOperandOk all ch
  | .stereo => true
  | .antialias all ch => channelOperandOk all ch
  | .imdct all ch => channelOperandOk all ch
  | .freqinv all ch => channelOperandOk all ch
  | .synth all ch => channelOperandOk all ch
  | .silence => true
  | .backend => true

end Sys2Proof
end

