-- ==== Sys2Proof/Decode.lean ====
section
/-! DEFINITION. The decoder of command words (30_encoding.md R80 to R85), total on 32-bit words and rejecting by name, and
the encoder, both written from the format of R80 and the opcode map of R83. -/

namespace Sys2Proof

/-- Why a word is no command (30_encoding.md R82): one name per state-independent clause of the rule. -/
inductive Reject where
  | reservedBits          -- `RSV != 0`
  | unknownOpcode         -- `OP` not in the table of R83
  | allWithChannelOne     -- a per-channel command with `ALL = 1` and `CH = 1`
  | huffAll               -- HUFF with `ALL = 1`
  | channelOperand        -- a channel-free command with `CH = 1` or `ALL = 1`
deriving DecidableEq, Repr

/-- Field `OP` (30_encoding.md R80). -/
def opField (w : Word) : Nat := (w.extractLsb' 0 8).toNat

/-- Field `CH` (30_encoding.md R80). -/
def chField (w : Word) : Ch := if w.getLsbD 8 then .c1 else .c0

/-- Field `ALL` (30_encoding.md R80). -/
def allField (w : Word) : Bool := w.getLsbD 9

/-- Field `RSV` (30_encoding.md R80). -/
def rsvField (w : Word) : Nat := (w.extractLsb' 10 22).toNat

/-- A channel-free command admits neither `CH` nor `ALL` (30_encoding.md R82). -/
def decodeFree (w : Word) (i : Instr) : Except Reject Instr :=
  if allField w = false ∧ chField w = .c0 then .ok i else .error .channelOperand

/-- A per-channel command admits a channel, or `ALL` with `CH = 0` (30_encoding.md R82). -/
def decodePer (w : Word) (mk : Bool → Ch → Instr) : Except Reject Instr :=
  if channelOperandOk (allField w) (chField w) then .ok (mk (allField w) (chField w)) else .error .allWithChannelOne

/-- HUFF admits a channel and no `ALL` (30_encoding.md R82). -/
def decodeHuff (w : Word) : Except Reject Instr :=
  if allField w then .error .huffAll else .ok (.huff (chField w))

/-- The opcode map (30_encoding.md R83), applied to a word whose reserved bits are 0. -/
def decodeOp (w : Word) : Except Reject Instr :=
  match opField w with
  | 0x00 => decodeFree w .nop
  | 0x01 => decodePer w .clearhist
  | 0x10 => decodeHuff w
  | 0x20 => decodePer w .requant
  | 0x21 => decodePer w .reorder
  | 0x22 => decodeFree w .stereo
  | 0x30 => decodePer w .antialias
  | 0x31 => decodePer w .imdct
  | 0x32 => decodePer w .freqinv
  | 0x40 => decodePer w .synth
  | 0x41 => decodeFree w .silence
  | 0x50 => decodeFree w .backend
  | _ => .error .unknownOpcode

/-- The command a word encodes, or the clause of 30_encoding.md R82 that rejects it. -/
def decode (w : Word) : Except Reject Instr :=
  if rsvField w = 0 then decodeOp w else .error .reservedBits

/-- The opcode of a command (30_encoding.md R83). -/
def opcode : Instr → BitVec 8
  | .nop => 0x00
  | .clearhist _ _ => 0x01
  | .huff _ => 0x10
  | .requant _ _ => 0x20
  | .reorder _ _ => 0x21
  | .stereo => 0x22
  | .antialias _ _ => 0x30
  | .imdct _ _ => 0x31
  | .freqinv _ _ => 0x32
  | .synth _ _ => 0x40
  | .silence => 0x41
  | .backend => 0x50

/-- The `CH` bit of a channel (30_encoding.md R80). -/
def Ch.bit : Ch → BitVec 1
  | .c0 => 0
  | .c1 => 1

/-- Is this channel 1 (`ERRINFO.CH`, 10_state.md R25). -/
def Ch.isOne : Ch → Bool
  | .c0 => false
  | .c1 => true

/-- `word = RSV<<10 | ALL<<9 | CH<<8 | OP` (30_encoding.md R84). -/
def encodeC (op : BitVec 8) (all : Bool) (ch : Ch) : Word :=
  (0 : BitVec 22) ++ BitVec.ofBool all ++ ch.bit ++ op

/-- The word of a command (30_encoding.md R84). -/
def encode (i : Instr) : Word :=
  match i with
  | .nop => encodeC (opcode i) false .c0
  | .clearhist all ch => encodeC (opcode i) all ch
  | .huff ch => encodeC (opcode i) false ch
  | .requant all ch => encodeC (opcode i) all ch
  | .reorder all ch => encodeC (opcode i) all ch
  | .stereo => encodeC (opcode i) false .c0
  | .antialias all ch => encodeC (opcode i) all ch
  | .imdct all ch => encodeC (opcode i) all ch
  | .freqinv all ch => encodeC (opcode i) all ch
  | .synth all ch => encodeC (opcode i) all ch
  | .silence => encodeC (opcode i) false .c0
  | .backend => encodeC (opcode i) false .c0

/-- The word whose bits are `w`, of which the opcode table gives `nbits`; every bit above them is 0. A command is one
32-bit word (30_encoding.md R80), so the table's bit numbers are the register's. -/
def tableWord (nbits w : Nat) : Word := BitVec.ofNat 32 (w % 2 ^ nbits)

/-- What the decoder reads from a word of the opcode table. -/
def decodeTableWord (nbits w : Nat) : Option Instr := (decode (tableWord nbits w)).toOption

end Sys2Proof
end

