-- ==== Sys2Proof/Config.lean ====
section
/-! DEFINITION. What an implementation fixes and the spec leaves open (00_scope.md R8, R9), and the free values.
Every constant here is opaque: nothing can be proved about its value, so a theorem holds for every implementation.
The parameters that have a value in the spec stand in Machine/Tables.lean. -/

namespace Sys2Proof

/-- One codeword of a big-value Huffman table with the pair it stands for; both components are 0 to 15
(40_huffman.md R104). -/
structure HuffEntry where
  code : List Bool
  x : BitVec 4
  y : BitVec 4
deriving DecidableEq, Repr

/-- The values the number format can hold, up to sign (00_scope.md R8; log 1). -/
opaque Config.fpGrid : Rat → Bool

/-- The rounding direction of `FP` (00_scope.md R8, D7): what an implementation stores for a real number. The real is
given as the property of being that number, which carries no run-time data (log 1). -/
opaque Config.fpRound : (ℝ → Prop) → Rat

/-- `PCM_SCALE`, the int16 code of a synthesis output of 1.0 (43_synthesis.md R196, D8; log 3). -/
opaque Config.pcmScale : Rat

/-- The synthesis window `D[0..512]` (43_synthesis.md R194, D11; log 3). -/
opaque Config.synthWindow : Nat → Rat

/-- The big-value codes the spec does not list (00_scope.md R9, D9; log 4), by table number. -/
opaque Config.huffCode : Nat → List HuffEntry

/-- FREE VALUE: the byte at host offset `a` of the main-data RAM that nothing has written since hardware reset number
`draw` (10_state.md R35, A5; log 9). -/
opaque Config.mdReset : (draw a : Nat) → Byte

/-- FREE VALUE: line `i` of the undefined part of `ISI` after InvalidHuffmanCode (40_huffman.md R105, A6; log 10). -/
opaque Config.freeIsi : (draw i : Nat) → Half

/-- FREE VALUE: `COUNT1` after InvalidHuffmanCode (40_huffman.md R105, A6; log 10). -/
opaque Config.freeCount1 : (draw : Nat) → BitVec 10

/-- FREE VALUE: `BITPOS` after InvalidHuffmanCode (40_huffman.md R105, A6; log 10). -/
opaque Config.freeBitpos : (draw : Nat) → BitVec 15

/-- FREE VALUE: `ERRINFO.CH` of an OutOfRange raised by STEREO, which works on no single channel (10_state.md R25;
log 15). -/
opaque Config.freeErrChannel : (draw : Nat) → Bool

end Sys2Proof
end

