-- ==== Sys2Proof/Machine/State.lean ====
section
/-! DEFINITION. The state of the L3 back-end (10_state.md R20) as plain data, its reset value (70_reset_and_hazards.md
R250), and the reasons a step can stop. -/

namespace Sys2Proof.Machine

/-- Why a step faults: never. The block "has no traps" (60_exceptions.md R238) and every offset of its address space
exists (20_memory.md R70), so the type has no constructor. -/
inductive Fault
deriving DecidableEq, Repr

/-- Why a step is refused. No command is ever refused; the last two are host accesses the spec tells a model to refuse. -/
inductive Refusal where
  /-- Raised by an arm of exec for a command without a meaning; none is left. Safe: the machine stops. -/
  | notModelled (mnemonic : String)
  /-- Raised by a host access of a wrong width or alignment ("a model treats the access as a host fault (refuse)",
  20_memory.md R67). Safe: the machine stops. -/
  | badAccess
  /-- Raised by a host access while `BUSY = 1` that 70_reset_and_hazards.md R255 calls a hazard ("A model refuses it").
  Safe: the machine stops. -/
  | busyHazard
deriving DecidableEq, Repr

/-- The width of a host access (20_memory.md R67). -/
inductive Width where
  | byte
  | half
  | word
deriving DecidableEq, Repr

/-- One host bus access (20_memory.md R66, R67; 30_encoding.md R87). A narrow write takes the low bits of `val`. -/
inductive Access where
  | write (w : Width) (off : Offset) (val : Word)
  | read (w : Width) (off : Offset)
deriving DecidableEq, Repr

/-- What the outside world does to the block. `whileBusy` says, for an access that comes when a command is running,
whether it lands before the command ends (log 7); it has no meaning when the block is idle. -/
inductive HostEvent where
  | access (whileBusy : Bool) (a : Access)
  | hardReset
deriving DecidableEq, Repr

/-- The `STATUS` register (10_state.md R23), one field per named bit field. -/
structure Status where
  busy : Bool
  done : Bool
  err : Bool
  oob : Bool
  errcode : BitVec 4
  overrun : Bool
deriving DecidableEq, Repr

/-- The state the spec gives each channel: `GCD0` to `GCD3` without their reserved bits (10_state.md R29 to R32), the
scalefactor bytes 0 to 57 (R33), and the arrays `ISI`, `XR`, `PREV`, `V` (R36, R38 to R40). The `FP` values of the last
three are rational numbers (log 1). -/
structure Channel where
  gcd0 : BitVec 31
  gcd1 : BitVec 28
  gcd2 : BitVec 9
  part2Start : BitVec 15
  count1 : BitVec 10
  sf : Vector Byte 58
  isi : Vector Half 576
  xr : Vector Rat 576
  prev : Vector (Vector Rat 18) 32
  v : Vector Rat 1024
deriving DecidableEq, Repr

/-- The written bytes of the main-data RAM, keyed by host offset, in rising order. An unlisted offset holds no written
value (log 9). -/
abbrev Memory := List Host.Cell

/-- The state of the block (10_state.md R20). The fields from `inbox` on are the model's own (log 7, 8, 9, 10). -/
structure State where
  irqEn : Bool
  status : Status
  cmd : Word
  errinfo : BitVec 26
  bitpos : BitVec 15
  mdLen : BitVec 13
  cfg : BitVec 8
  chan0 : Channel
  chan1 : Channel
  isillL : BitVec 21
  isillS : Vector (BitVec 12) 3
  mem : Memory
  pcm : Vector (Half × Half) 576
  inbox : List HostEvent
  busData : Word
  draws : Nat
  mdDraw : Nat
deriving DecidableEq, Repr

/-- `STATUS` after reset (70_reset_and_hazards.md R250). -/
def Status.reset : Status :=
  { busy := false, done := false, err := false, oob := false, errcode := 0, overrun := false }

/-- A channel after reset (70_reset_and_hazards.md R250). -/
def Channel.reset : Channel :=
  { gcd0 := 0, gcd1 := 0, gcd2 := 0, part2Start := 0, count1 := 0
    sf := Vector.replicate 58 0
    isi := Vector.replicate 576 0
    xr := Vector.replicate 576 0
    prev := Vector.replicate 32 (Vector.replicate 18 0)
    v := Vector.replicate 1024 0 }

/-- The block after a hardware reset (70_reset_and_hazards.md R250), with nothing placed by the host. -/
def State.reset : State :=
  { irqEn := false, status := Status.reset, cmd := 0, errinfo := 0, bitpos := 0, mdLen := 0, cfg := 0
    chan0 := Channel.reset, chan1 := Channel.reset
    isillL := 0, isillS := Vector.replicate 3 0
    mem := [], pcm := Vector.replicate 576 (0, 0)
    inbox := [], busData := 0, draws := 0, mdDraw := 0 }

end Sys2Proof.Machine
end

