-- ==== Sys2Proof/Machine/Tables.lean ====
section
/-! DEFINITION. The parameters the spec gives a value: the source's literals (00_scope.md R10) and the default tables of
93_implementation_defined.md Part B (00_scope.md R9; PRESUMED, log 4, log 5, log 6). -/

namespace Sys2Proof.Machine

/-- `MD_BYTES` (00_scope.md R7). -/
def mdBytes : Nat := 4096

/-- `SHORT_BASE`, the source's literal (00_scope.md R10, D17; log 6). -/
def shortBase : Nat := 0

/-- `SBG_EXP`, the source's literal (00_scope.md R10, D18; log 6). -/
def sbgExp : Nat := 8

/-- `COUNT1_STOP`, the source's literal (00_scope.md R10, D19; log 6). -/
def count1Stop : Nat := 572

/-- Big-value table 1 (93_implementation_defined.md Part B). -/
def huffTable1 : List HuffEntry :=
  [⟨[true], 0, 0⟩, ⟨[false, false, true], 0, 1⟩, ⟨[false, true], 1, 0⟩, ⟨[false, false, false], 1, 1⟩]

/-- The code of big-value table `t`: table 1 is listed; tables 16 to 23 share one code and tables 24 to 31 another
(93_implementation_defined.md Part B); the rest is the open parameter `HUFF_TABLES` (log 4). -/
def huffTable (t : Nat) : List HuffEntry :=
  if t = 1 then huffTable1
  else if 24 ≤ t then Config.huffCode 24
  else if 16 ≤ t then Config.huffCode 16
  else Config.huffCode t

/-- `linbits(t)` (93_implementation_defined.md Part B). -/
def linbits : Nat → Nat
  | 16 => 1
  | 17 => 2
  | 18 => 3
  | 19 => 4
  | 20 => 6
  | 21 => 8
  | 22 => 10
  | 23 => 13
  | 24 => 4
  | 25 => 5
  | 26 => 6
  | 27 => 7
  | 28 => 8
  | 29 => 9
  | 30 => 11
  | 31 => 13
  | _ => 0

/-- Quadruple table A (table 32), codeword and `h = vwxy` (93_implementation_defined.md Part B). -/
def quadTableA : List (List Bool × Nat) :=
  [ ([true], 0b0000),
    ([false, true, false, true], 0b0001),
    ([false, true, false, false], 0b0010),
    ([false, false, true, false, true], 0b0011),
    ([false, true, true, false], 0b0100),
    ([false, false, false, true, false, true], 0b0101),
    ([false, false, true, false, false], 0b0110),
    ([false, false, false, true, false, false], 0b0111) ] ++
  [ ([false, true, true, true], 0b1000),
    ([false, false, false, true, true], 0b1001),
    ([false, false, true, true, false], 0b1010),
    ([false, false, false, false, false, false], 0b1011),
    ([false, false, true, true, true], 0b1100),
    ([false, false, false, false, true, false], 0b1101),
    ([false, false, false, false, true, true], 0b1110),
    ([false, false, false, false, false, true], 0b1111) ]

/-- The row MPEG-2, 2 of `SFB_LONG`, shared by MPEG-2.5 rows 0 and 1 (93_implementation_defined.md Part B). -/
def sfbLongLow : List Nat :=
  [0, 6, 12, 18, 24, 30, 36, 44, 54, 66, 80, 96, 116, 140, 168, 200, 238, 284, 336, 396, 464, 522, 576]

/-- The row MPEG-2, 2 of `SFB_SHORT`, shared by MPEG-2.5 rows 0 and 1 (93_implementation_defined.md Part B). -/
def sfbShortLow : List Nat := [0, 4, 8, 12, 18, 26, 36, 48, 62, 80, 104, 134, 174, 192]

/-- `SFB_LONG[version][sr_index]` (00_scope.md R9; 93_implementation_defined.md Part B). -/
def sfbLong (version srIndex : Nat) : List Nat :=
  match version, srIndex with
  | 0, 0 => [0, 4, 8, 12, 16, 20, 24, 30, 36, 44, 52, 62, 74, 90, 110, 134, 162, 196, 238, 288, 342, 418, 576]
  | 0, 1 => [0, 4, 8, 12, 16, 20, 24, 30, 36, 42, 50, 60, 72, 88, 106, 128, 156, 190, 230, 276, 330, 384, 576]
  | 0, 2 => [0, 4, 8, 12, 16, 20, 24, 30, 36, 44, 54, 66, 82, 102, 126, 156, 194, 240, 296, 364, 448, 550, 576]
  | 1, 0 => [0, 6, 12, 18, 24, 30, 36, 44, 54, 66, 80, 96, 116, 140, 168, 200, 238, 284, 336, 396, 464, 522, 576]
  | 1, 1 => [0, 6, 12, 18, 24, 30, 36, 44, 54, 66, 80, 96, 114, 136, 162, 194, 232, 278, 332, 394, 464, 540, 576]
  | 2, 2 => [0, 12, 24, 36, 48, 60, 72, 88, 108, 132, 160, 192, 232, 280, 336, 400, 476, 566, 568, 570, 572, 574, 576]
  | _, _ => sfbLongLow

/-- `SFB_SHORT[version][sr_index]` (00_scope.md R9; 93_implementation_defined.md Part B). -/
def sfbShort (version srIndex : Nat) : List Nat :=
  match version, srIndex with
  | 0, 0 => [0, 4, 8, 12, 16, 22, 30, 40, 52, 66, 84, 106, 136, 192]
  | 0, 1 => [0, 4, 8, 12, 16, 22, 28, 38, 50, 64, 80, 100, 126, 192]
  | 0, 2 => [0, 4, 8, 12, 16, 22, 30, 42, 58, 78, 104, 138, 180, 192]
  | 1, 0 => [0, 4, 8, 12, 18, 24, 32, 42, 56, 74, 100, 132, 174, 192]
  | 1, 1 => [0, 4, 8, 12, 18, 26, 36, 48, 62, 80, 104, 136, 180, 192]
  | 2, 2 => [0, 8, 16, 24, 36, 52, 72, 96, 124, 160, 162, 164, 166, 192]
  | _, _ => sfbShortLow

/-- `PRETAB[0..22]` (93_implementation_defined.md Part B). -/
def pretab : List Nat := [0, 0, 0, 0, 0, 0, 0, 0, 0, 0, 0, 1, 1, 1, 1, 2, 2, 3, 3, 3, 2, 0]

/-- `CI[0..8]` (93_implementation_defined.md Part B): -0.6, -0.535, -0.33, -0.185, -0.095, -0.041, -0.0142, -0.0037. -/
def antialiasCi : List Rat :=
  [mkRat (-6) 10, mkRat (-535) 1000, mkRat (-33) 100, mkRat (-185) 1000,
   mkRat (-95) 1000, mkRat (-41) 1000, mkRat (-142) 10000, mkRat (-37) 10000]

end Sys2Proof.Machine
end

