-- ==== Sys2Proof/Machine/Ops.lean ====
section
/-! DEFINITION. The named operations over memory, arrays and channels, and the end of a command: success, or an error with
its code and information (60_exceptions.md R230), this block's one form of exception, with the host's acknowledgement of
it (R239) beside it. -/

namespace Sys2Proof.Machine

/-- Element `i` of a fixed array, or `d` past its end. -/
def look {α : Type} {n : Nat} (v : Vector α n) (i : Nat) (d : α) : α := if h : i < n then v[i] else d

/-- A fixed array with element `i` replaced; unchanged past its end. -/
def put {α : Type} {n : Nat} (v : Vector α n) (i : Nat) (x : α) : Vector α n := v.setIfInBounds i x

/-- The byte written at `a`, if any (log 9). -/
def Memory.find : Memory → Nat → Option Byte
  | [], _ => none
  | (k, b) :: m, a => if k = a then some b else Memory.find m a

/-- Write byte `b` at `a`, keeping the addresses rising. -/
def Memory.insert : Memory → Nat → Byte → Memory
  | [], a, b => [(a, b)]
  | (k, c) :: m, a, b =>
    if a < k then (a, b) :: (k, c) :: m
    else if a = k then (a, b) :: m
    else (k, c) :: Memory.insert m a b

/-- The addresses of a memory rise from above `lo`. -/
def Memory.risesFrom : Nat → Memory → Bool
  | _, [] => true
  | lo, (k, _) :: m => decide (lo < k) && Memory.risesFrom k m

/-- The canonical form: strictly rising addresses, all in the main-data RAM's window (20_memory.md R70). An unlisted
address holds no written value, so no entry can equal what an unlisted address holds (log 9). -/
def Memory.wf (m : Memory) : Bool := Memory.risesFrom 0xFFF m && m.all (fun c => decide (c.1 < 0x1000 + mdBytes))

/-- Byte `k` of `MD` (10_state.md R35): the byte the host wrote, or a free byte where none was written since hardware
reset (70_reset_and_hazards.md R250; log 9). -/
def State.mdByte (s : State) (k : Nat) : Byte :=
  (Memory.find s.mem (0x1000 + k)).getD (Config.mdReset s.mdDraw (0x1000 + k))

/-- The state of a channel. -/
def State.chan (s : State) : Ch → Channel
  | .c0 => s.chan0
  | .c1 => s.chan1

/-- Replace the state of a channel. -/
def State.setChan (s : State) (ch : Ch) (c : Channel) : State :=
  match ch with
  | .c0 => { s with chan0 := c }
  | .c1 => { s with chan1 := c }

/-- Replace `XR[ch]` (10_state.md R38). -/
def State.setXr (s : State) (ch : Ch) (xr : Vector Rat 576) : State := s.setChan ch { s.chan ch with xr := xr }

/-- The error codes of 60_exceptions.md R230. -/
inductive ErrCode where
  | invalidHuffmanCode
  | outOfRange
  | unexpectedEOF
  | illegalCommand
deriving DecidableEq, Repr

/-- The numeric code (60_exceptions.md R230). -/
def ErrCode.code : ErrCode → BitVec 4
  | .invalidHuffmanCode => 1
  | .outOfRange => 2
  | .unexpectedEOF => 3
  | .illegalCommand => 4

/-- What an error reports: the code of `STATUS.ERRCODE` and the contents of `ERRINFO`. -/
structure CmdError where
  kind : ErrCode
  info : BitVec 26
deriving DecidableEq, Repr

/-- `ERRINFO` (10_state.md R25): `POS ++ CH ++ BITPOS`. -/
def errInfo (pos : BitVec 10) (ch : Bool) (bitpos : BitVec 15) : BitVec 26 := pos ++ BitVec.ofBool ch ++ bitpos

/-- How the body of a command, or one step of BACKEND, ends: in a state, or raising an error in the state it has left
(`raise` of 00_scope.md R13). -/
inductive CmdResult where
  | ok (s : State)
  | err (e : CmdError) (s : State)
deriving DecidableEq, Repr

/-- Run the next step of a command unless an error has ended it (44_control.md R213). -/
def CmdResult.andThen (r : CmdResult) (f : State → CmdResult) : CmdResult :=
  match r with
  | .ok s => f s
  | .err e s => .err e s

/-- The end of a command without error (10_state.md R57, 60_exceptions.md R230): `BUSY <- 0`, `DONE <- 1`. -/
def State.endDone (s : State) : State := { s with status := { s.status with busy := false, done := true } }

/-- The end of a command with an error, the block's exception (60_exceptions.md R230, R238): `BUSY <- 0`, `ERR <- 1`,
`ERRCODE` and `ERRINFO` written, `DONE` as it was (10_state.md R57). -/
def State.endError (s : State) (e : CmdError) : State :=
  { s with
    status := { s.status with busy := false, err := true, errcode := e.kind.code }
    errinfo := e.info }

/-- The host's acknowledgement of an error, the block's return from exception (60_exceptions.md R239): `ERR`, `ERRCODE`
and `ERRINFO` to 0. -/
def State.ackError (s : State) : State :=
  { s with status := { s.status with err := false, errcode := 0 }, errinfo := 0 }

/-- The end of a command, with or without an error (60_exceptions.md R230). -/
def finish (r : CmdResult) : Host.Outcome State Fault Refusal :=
  match r with
  | .ok s => .next s.endDone
  | .err e s => .next (s.endError e)

/-- IllegalCommand with `ERRINFO` 0 (60_exceptions.md R230, R234). -/
def illegalCommand : CmdError := { kind := .illegalCommand, info := 0 }

/-- OutOfRange raised for channel `ch`: the cursor, `ch`, position 0 (60_exceptions.md R230). -/
def outOfRange (s : State) (ch : Bool) : CmdError := { kind := .outOfRange, info := errInfo 0 ch s.bitpos }

/-- A write of `CMD` with `BUSY = 0` (10_state.md R24, R57): the word is kept and the command it encodes is running.
Starting a command clears neither `DONE` nor `ERR`. -/
def State.startCommand (s : State) (w : Word) : State :=
  { s with cmd := w, status := { s.status with busy := true } }

/-- A write of `CMD` with `BUSY = 1` (60_exceptions.md R235): dropped, `OVERRUN <- 1`. -/
def State.overrun (s : State) : State := { s with status := { s.status with overrun := true } }

/-- Soft reset (70_reset_and_hazards.md R251): every element to its reset value, `MD` kept. The model's own fields are
not the block's and stay. -/
def State.softReset (s : State) : State :=
  { State.reset with
    mem := s.mem, mdDraw := s.mdDraw, draws := s.draws, inbox := s.inbox, busData := s.busData }

/-- Hardware reset (70_reset_and_hazards.md R250): as soft reset, and `MD` is unspecified again: a new draw (log 9,
log 17). -/
def State.hardReset (s : State) : State :=
  { State.reset with
    mdDraw := s.draws + 1, draws := s.draws + 1, inbox := s.inbox, busData := s.busData }

end Sys2Proof.Machine
end

