-- ==== Sys2Proof/Machine/Flags.lean ====
section
/-! DEFINITION. The `STATUS` register as a word, its write-1-to-clear bits (10_state.md R23), and the interrupt output
(60_exceptions.md R236). -/

namespace Sys2Proof.Machine

/-- `STATUS` as the host reads it (10_state.md R23). -/
def Status.word (st : Status) : Word :=
  (0 : BitVec 23) ++ BitVec.ofBool st.overrun ++ st.errcode ++ BitVec.ofBool st.oob ++ BitVec.ofBool st.err ++
    BitVec.ofBool st.done ++ BitVec.ofBool st.busy

/-- A host write of `STATUS` (10_state.md R23): write 1 to clear, write 0 no effect; clearing `ERR` acknowledges the
error (60_exceptions.md R239). -/
def State.writeStatus (s : State) (w : Word) : State :=
  let t := if w.getLsbD 2 then s.ackError else s
  { t with
    status :=
      { t.status with
        done := t.status.done && !w.getLsbD 1
        oob := t.status.oob && !w.getLsbD 3
        overrun := t.status.overrun && !w.getLsbD 8 } }

/-- The interrupt output (60_exceptions.md R236): `IRQ_EN and (DONE or ERR)`. -/
def State.irq (s : State) : Bool := s.irqEn && (s.status.done || s.status.err)

end Sys2Proof.Machine
end

