-- ==== Sys2Proof/Machine/Formula.lean ====
section
/-! DEFINITION. The exact real formulas of the spec (00_scope.md R12) as terms, what real number each denotes, and `FP`
(00_scope.md R8), the rounding applied to every stored non-integer result. -/

namespace Sys2Proof.Machine

/-- A real-valued formula over the stored (rational) values. `cosPi q` is `cos(pi * q)`; `pow n e` is `n ^ e`. -/
inductive Formula where
  | rat (q : Rat)
  | add (a b : Formula)
  | sub (a b : Formula)
  | mul (a b : Formula)
  | div (a b : Formula)
  | sqrt (q : Rat)
  | pow (n : Nat) (e : Rat)
  | cosPi (q : Rat)
  | sinPi (q : Rat)
  | tanPi (q : Rat)
deriving DecidableEq, Repr

/-- The real number a formula denotes (00_scope.md R12), as a relation: "`t` denotes `x`". -/
def Formula.Denotes : Formula → ℝ → Prop
  | .rat q, x => x = (q : ℝ)
  | .add a b, x => ∃ y z, a.Denotes y ∧ b.Denotes z ∧ x = y + z
  | .sub a b, x => ∃ y z, a.Denotes y ∧ b.Denotes z ∧ x = y - z
  | .mul a b, x => ∃ y z, a.Denotes y ∧ b.Denotes z ∧ x = y * z
  | .div a b, x => ∃ y z, a.Denotes y ∧ b.Denotes z ∧ x = y / z
  | .sqrt q, x => x = Real.sqrt (q : ℝ)
  | .pow n e, x => x = (n : ℝ) ^ (e : ℝ)
  | .cosPi q, x => x = Real.cos (Real.pi * (q : ℝ))
  | .sinPi q, x => x = Real.sin (Real.pi * (q : ℝ))
  | .tanPi q, x => x = Real.tan (Real.pi * (q : ℝ))

/-- The sum of a list of formulas, `sum_{k}` of the spec's rules. -/
def Formula.sum (l : List Formula) : Formula := l.foldr .add (.rat 0)

/-- How many quarter turns `pi * q` is, modulo 4, when it is a whole number of them. -/
def quarterTurns? (q : Rat) : Option Nat :=
  if (2 * q).den = 1 then some ((2 * q).num % 4).toNat else none

/-- The cosine of a whole number of quarter turns. -/
def cosQuarter : Nat → Rat
  | 0 => 1
  | 2 => -1
  | _ => 0

/-- The sine of a whole number of quarter turns. -/
def sinQuarter : Nat → Rat
  | 1 => 1
  | 3 => -1
  | _ => 0

/-- `n ^ e` where `n` is a power `r ^ d` of a number `r` up to 32, `d` the denominator of `e`: every cube an `ISI` value
can be, and every whole power of 2. -/
def powExact? (n : Nat) (e : Rat) : Option Rat :=
  ((List.range 33).find? (fun r => decide (r ^ e.den = n))).map (fun (r : Nat) => (r : Rat) ^ e.num)

/-- The value of a formula where it is rational and the model sees that it is (log 2); a product or quotient with a zero
factor is 0 whatever the other factor is. -/
def Formula.exact? : Formula → Option Rat
  | .rat q => some q
  | .add a b =>
    match a.exact? with
    | none => none
    | some x => if x = 0 then b.exact? else b.exact?.map (fun y => x + y)
  | .sub a b =>
    match a.exact? with
    | none => none
    | some x => b.exact?.map (fun y => x - y)
  | .mul a b =>
    match a.exact? with
    | none => if b.exact? = some 0 then some 0 else none
    | some x => if x = 0 then some 0 else b.exact?.map (fun y => x * y)
  | .div a b =>
    match a.exact? with
    | none => none
    | some x => if x = 0 then some 0 else b.exact?.map (fun y => x / y)
  | .sqrt _ => none
  | .pow n e => powExact? n e
  | .cosPi q => (quarterTurns? q).map cosQuarter
  | .sinPi q => (quarterTurns? q).map sinQuarter
  | .tanPi q => if q = 0 then some 0 else if q = 1 / 4 then some 1 else none

/-- The magnitude of a rational. -/
def magnitude (q : Rat) : Rat := if q < 0 then -q else q

/-- Can the number format hold `q`? It can hold 0, and it is sign-magnitude (42_hybrid.md R175; log 1). -/
def representable (q : Rat) : Bool := decide (q = 0) || Config.fpGrid (magnitude q)

/-- A number of the format: the one given, or 0 where the one given is none (log 1). -/
def toFormat (q : Rat) : Rat := if representable q then q else 0

/-- `FP` (00_scope.md R8): the stored result of an exact real formula. A total rounding: its results are numbers of the
format, and a value of the format that the model sees as such is stored unchanged (log 1, log 2). -/
def fp (t : Formula) : Rat :=
  match t.exact? with
  | some q => if representable q then q else toFormat (Config.fpRound (fun x => x = (q : ℝ)))
  | none => toFormat (Config.fpRound t.Denotes)

end Sys2Proof.Machine
end

