-- ==== Sys2Proof/Machine/Operands.lean ====
section
/-! DEFINITION. What a command reads as operands: the configuration and descriptor fields (10_state.md R28 to R32), the
block classes (R42, R45), the band tables (R43, R44), and the channel set of a command with its legality
(30_encoding.md R81, R82). -/

namespace Sys2Proof.Machine

/-- `CFG.VERSION` (10_state.md R28). -/
def State.version (s : State) : Nat := (s.cfg.extractLsb' 0 2).toNat
/-- `CFG.SR_INDEX` (10_state.md R28). -/
def State.srIndex (s : State) : Nat := (s.cfg.extractLsb' 2 2).toNat
/-- `CFG.CH_MODE` (10_state.md R28). -/
def State.chMode (s : State) : Nat := (s.cfg.extractLsb' 4 2).toNat
/-- `CFG.MODE_EXT` bit 6, `IS_ON` (10_state.md R28). -/
def State.isOn (s : State) : Bool := s.cfg.getLsbD 6
/-- `CFG.MODE_EXT` bit 7, `MS_ON` (10_state.md R28). -/
def State.msOn (s : State) : Bool := s.cfg.getLsbD 7

/-- The channels of the stream: one when `CH_MODE = 3`, else two (10_state.md R21). -/
def State.channels (s : State) : List Ch := if s.chMode = 3 then [.c0] else [.c0, .c1]

/-- `nch` (10_state.md R21). -/
def State.nch (s : State) : Nat := if s.chMode = 3 then 1 else 2

/-- `GCD0.PART23_LEN` (10_state.md R29). -/
def Channel.part23Len (c : Channel) : Nat := (c.gcd0.extractLsb' 0 12).toNat
/-- `GCD0.BIG_VALUES` (10_state.md R29). -/
def Channel.bigValues (c : Channel) : Nat := (c.gcd0.extractLsb' 12 9).toNat
/-- `GCD0.GLOBAL_GAIN` (10_state.md R29). -/
def Channel.globalGain (c : Channel) : Nat := (c.gcd0.extractLsb' 21 8).toNat
/-- `GCD0.WS_FLAG` (10_state.md R29). -/
def Channel.wsFlag (c : Channel) : Bool := c.gcd0.getLsbD 29
/-- `GCD0.MIXED` (10_state.md R29). -/
def Channel.mixedFlag (c : Channel) : Bool := c.gcd0.getLsbD 30
/-- `GCD1.BLOCK_TYPE` (10_state.md R30). -/
def Channel.blockType (c : Channel) : Nat := (c.gcd1.extractLsb' 0 2).toNat
/-- `GCD1.TSEL0` (10_state.md R30). -/
def Channel.tsel0 (c : Channel) : Nat := (c.gcd1.extractLsb' 2 5).toNat
/-- `GCD1.TSEL1` (10_state.md R30). -/
def Channel.tsel1 (c : Channel) : Nat := (c.gcd1.extractLsb' 7 5).toNat
/-- `GCD1.TSEL2` (10_state.md R30). -/
def Channel.tsel2 (c : Channel) : Nat := (c.gcd1.extractLsb' 12 5).toNat
/-- `GCD1.REGION0` (10_state.md R30). -/
def Channel.region0 (c : Channel) : Nat := (c.gcd1.extractLsb' 17 4).toNat
/-- `GCD1.REGION1` (10_state.md R30). -/
def Channel.region1 (c : Channel) : Nat := (c.gcd1.extractLsb' 21 3).toNat
/-- `GCD1.PREFLAG` (10_state.md R30). -/
def Channel.preflag (c : Channel) : Bool := c.gcd1.getLsbD 24
/-- `GCD1.SF_SCALE` (10_state.md R30). -/
def Channel.sfScale (c : Channel) : Bool := c.gcd1.getLsbD 25
/-- `GCD1.C1TSEL` (10_state.md R30). -/
def Channel.c1tsel (c : Channel) : Bool := c.gcd1.getLsbD 26
/-- `GCD1.INT_SCALE` (10_state.md R30). -/
def Channel.intScale (c : Channel) : Bool := c.gcd1.getLsbD 27
/-- `GCD2.SBG0`, `SBG1`, `SBG2` for windows 0, 1, 2 (10_state.md R31). -/
def Channel.subblockGain (c : Channel) (w : Nat) : Nat := (c.gcd2.extractLsb' (3 * w) 3).toNat
/-- Byte `b` of `SF[ch]` (10_state.md R33); the reserved bytes 58 to 63 read 0. -/
def Channel.sfByte (c : Channel) (b : Nat) : Nat := (look c.sf b 0).toNat
/-- `ISI[ch][i]` as the signed integer it is (10_state.md R36). -/
def Channel.isiLine (c : Channel) (i : Nat) : Int := (look c.isi i 0).toInt
/-- `XR[ch][i]` (10_state.md R38). -/
def Channel.xrLine (c : Channel) (i : Nat) : Rat := look c.xr i 0
/-- `PREV[ch][sb][n]` (10_state.md R39). -/
def Channel.prevAt (c : Channel) (sb n : Nat) : Rat := look (look c.prev sb (Vector.replicate 18 0)) n 0

/-- `bt(ch)` (10_state.md R42). -/
def Channel.bt (c : Channel) : Nat := if c.wsFlag then c.blockType else 0
/-- `short(ch)` (10_state.md R42). -/
def Channel.short (c : Channel) : Bool := c.wsFlag && decide (c.blockType = 2)
/-- `mixed(ch)` (10_state.md R42). -/
def Channel.mixed (c : Channel) : Bool := c.short && c.mixedFlag
/-- `pure_short(ch)` (10_state.md R42). -/
def Channel.pureShort (c : Channel) : Bool := c.short && !c.mixed
/-- Is line `i` short (10_state.md R45)? -/
def Channel.lineShort (c : Channel) (i : Nat) : Bool := c.pureShort || (c.mixed && decide (36 ≤ i))
/-- Is subband `sb` short (10_state.md R45)? -/
def Channel.subbandShort (c : Channel) (sb : Nat) : Bool := c.pureShort || (c.mixed && decide (2 ≤ sb))

/-- The long band boundaries `L` (10_state.md R43). -/
def State.longTable (s : State) : List Nat := sfbLong s.version s.srIndex
/-- The short band boundaries `S` (10_state.md R43). -/
def State.shortTable (s : State) : List Nat := sfbShort s.version s.srIndex
/-- Entry `j` of a band table. -/
def entry (t : List Nat) (j : Nat) : Nat := t.getD j 576

/-- The long band `b` with `L[b] <= i < L[b+1]` (10_state.md R43). -/
def longBand (L : List Nat) (i : Nat) : Nat :=
  ((List.range 22).find? (fun b => decide (entry L b ≤ i ∧ i < entry L (b + 1)))).getD 0

/-- The short band `b` with `3*S[b] <= i < 3*S[b+1]` (41_requant_stereo.md R134). -/
def shortBand (S : List Nat) (i : Nat) : Nat :=
  ((List.range 13).find? (fun b => decide (3 * entry S b ≤ i ∧ i < 3 * entry S (b + 1)))).getD 0

/-- The width `S[b+1] - S[b]` of a short band in one window (41_requant_stereo.md R134). -/
def shortWidth (S : List Nat) (b : Nat) : Nat := entry S (b + 1) - entry S b

/-- The window of line `i` of a short region before reorder (41_requant_stereo.md R134). -/
def shortWindow (S : List Nat) (i : Nat) : Nat :=
  (i - 3 * entry S (shortBand S i)) / shortWidth S (shortBand S i)

/-- "check CFG.VERSION != 3 and CFG.SR_INDEX != 3" (10_state.md R28). -/
def State.tablesOk (s : State) : Bool := decide (s.version ≠ 3) && decide (s.srIndex ≠ 3)

/-- Can the table row split a mixed block at line 36: `36 in L and 3*S[3] = 36` (10_state.md R44). -/
def State.splitOk (s : State) : Bool := s.longTable.contains 36 && decide (3 * entry s.shortTable 3 = 36)

/-- Can the channel's block be processed: it is not mixed, or the table row, which must exist (10_state.md R28), can split
it (10_state.md R44; log 13)? -/
def splitUsable (s : State) (ch : Ch) : Bool := !(s.chan ch).mixed || (s.tablesOk && s.splitOk)

/-- The channel set of a per-channel command (30_encoding.md R81). -/
def chans (s : State) (all : Bool) (ch : Ch) : List Ch := if all then s.channels else [ch]

/-- The legality of a per-channel command's operand in this state (30_encoding.md R82): not `ALL` with `CH = 1`, and no
channel 1 while `nch = 1`. -/
def channelsLegal (s : State) (all : Bool) (ch : Ch) : Bool :=
  !(all && ch.isOne) && !(decide (s.nch = 1) && (chans s all ch).any Ch.isOne)

/-- A per-channel command: its legality (30_encoding.md R82), then the checks of every channel before any state is
written (60_exceptions.md R232; log 14), then its effect on each channel in increasing order (30_encoding.md R80). -/
def perChannel (check : State → Ch → Option CmdError) (effect : State → Ch → State) (all : Bool) (ch : Ch) (s : State) :
    CmdResult :=
  if channelsLegal s all ch then
    match (chans s all ch).findSome? (check s) with
    | some e => .err e s
    | none => .ok ((chans s all ch).foldl effect s)
  else .err illegalCommand s

/-- OutOfRange of a command whose only use of the band tables is the split of a mixed block: "the block raises `OutOfRange`
on any command that processes a mixed block" (10_state.md R44; log 13). -/
def splitCheck (s : State) (ch : Ch) : Option CmdError :=
  if splitUsable s ch then none else some (outOfRange s ch.isOne)

/-- A per-channel command's check that raises nothing ("Exceptions: `IllegalCommand` only"). -/
def noCheck (_ : State) (_ : Ch) : Option CmdError := none

/-- One channel's step of BACKEND (44_control.md R213): its check, then its effect. -/
def oneChannel (check : State → Ch → Option CmdError) (effect : State → Ch → State) (ch : Ch) (s : State) : CmdResult :=
  match check s ch with
  | some e => .err e s
  | none => .ok (effect s ch)

end Sys2Proof.Machine
end

