-- ==== Sys2Proof/Machine/Bus.lean ====
section
/-! DEFINITION. The host bus: the address map (20_memory.md R70), the registers as the host reads and writes them
(10_state.md R22 to R34), bytes and their order (20_memory.md R66), the legal widths (R67) and the busy hazard
(70_reset_and_hazards.md R255). -/

namespace Sys2Proof.Machine

/-- The regions of the address map (20_memory.md R67, R70). -/
inductive Region where
  | regs
  | sf
  | md
  | pcm
  | isi
  | reserved
deriving DecidableEq, Repr

/-- The region of an offset (20_memory.md R67, R70). -/
def regionOf (a : Nat) : Region :=
  if a < 0x100 then .regs
  else if a < 0x180 then .sf
  else if 0x1000 ≤ a ∧ a < 0x2000 then .md
  else if 0x2000 ≤ a ∧ a < 0x2900 then .pcm
  else if 0x3000 ≤ a ∧ a < 0x3900 then .isi
  else .reserved

/-- The bytes of an access. -/
def Width.bytes : Width → Nat
  | .byte => 1
  | .half => 2
  | .word => 4

/-- The access widths of a region (20_memory.md R67); the reserved offsets outside the register space take every
width (log 18). -/
def widthOk (r : Region) (w : Width) : Bool :=
  match r, w with
  | .regs, .word => true
  | .regs, _ => false
  | .pcm, .byte => false
  | .isi, .byte => false
  | _, _ => true

/-- Is an access of this width legal at this offset (20_memory.md R67)? -/
def accessOk (w : Width) (off : Offset) : Bool :=
  widthOk (regionOf off.toNat) w && decide (off.toNat % w.bytes = 0)

/-- `GCD3[ch]` as the host reads it (10_state.md R32). -/
def Channel.gcd3 (c : Channel) : Word := (0 : BitVec 6) ++ c.count1 ++ (0 : BitVec 1) ++ c.part2Start

/-- A register as the host reads it (20_memory.md R70); reserved bits and offsets read 0, `CTRL.SOFT_RESET` reads 0. -/
def State.readReg (s : State) (a : Nat) : Word :=
  match a with
  | 0x000 => (0 : BitVec 31) ++ BitVec.ofBool s.irqEn
  | 0x004 => s.status.word
  | 0x008 => s.cmd
  | 0x00C => s.errinfo.setWidth 32
  | 0x010 => s.bitpos.setWidth 32
  | 0x014 => s.mdLen.setWidth 32
  | 0x018 => s.cfg.setWidth 32
  | 0x020 => s.chan0.gcd0.setWidth 32
  | 0x024 => s.chan0.gcd1.setWidth 32
  | 0x028 => s.chan0.gcd2.setWidth 32
  | 0x02C => s.chan0.gcd3
  | 0x030 => s.chan1.gcd0.setWidth 32
  | 0x034 => s.chan1.gcd1.setWidth 32
  | 0x038 => s.chan1.gcd2.setWidth 32
  | 0x03C => s.chan1.gcd3
  | 0x040 => s.isillL.setWidth 32
  | 0x044 => (look s.isillS 0 0).setWidth 32
  | 0x048 => (look s.isillS 1 0).setWidth 32
  | 0x04C => (look s.isillS 2 0).setWidth 32
  | _ => 0

/-- Byte `k` of a word, byte 0 its bits 7:0 (20_memory.md R66). -/
def byteOf (w : Word) (k : Nat) : Byte := w.extractLsb' (8 * k) 8

/-- Byte `k` (0 low, 1 high) of a little-endian halfword (10_state.md R36, R37). -/
def halfByte (h : Half) (k : Nat) : Byte := h.extractLsb' (8 * k) 8

/-- A halfword with one byte replaced. -/
def setHalfByte (h : Half) (k : Nat) (b : Byte) : Half :=
  if k = 0 then h.extractLsb' 8 8 ++ b else b ++ h.extractLsb' 0 8

/-- The channel whose `SF` byte is at offset `a` (20_memory.md R70). -/
def sfChannel (a : Nat) : Ch := if a < 0x140 then .c0 else .c1

/-- The channel whose `ISI` window holds offset `a` (20_memory.md R70). -/
def isiChannel (a : Nat) : Ch := if a < 0x3480 then .c0 else .c1

/-- The `ISI` line at offset `a` (10_state.md R36). -/
def isiIndex (a : Nat) : Nat := (a - 0x3000) % 0x480 / 2

/-- One byte of the host address space as a read gives it (20_memory.md R66, R70). -/
def State.hostByte (s : State) (a : Nat) : Byte :=
  match regionOf a with
  | .regs => byteOf (s.readReg (a - a % 4)) (a % 4)
  | .sf => look (s.chan (sfChannel a)).sf ((a - 0x100) % 0x40) 0
  | .md => s.mdByte (a - 0x1000)
  | .pcm =>
    let p := look s.pcm ((a - 0x2000) / 4) (0, 0)
    halfByte (if (a - 0x2000) / 2 % 2 = 0 then p.1 else p.2) (a % 2)
  | .isi => halfByte (look (s.chan (isiChannel a)).isi (isiIndex a) 0) (a % 2)
  | .reserved => 0

/-- A host read of `n` bytes, little-endian, in the low bits of the bus (20_memory.md R66). -/
def State.busRead (s : State) (a n : Nat) : Word :=
  (List.range n).foldl (fun w k => w ||| (s.hostByte (a + k)).setWidth 32 <<< (8 * k)) 0

/-- A host write of `CTRL` (10_state.md R22): `SOFT_RESET` resets the block, `CTRL` included (log 20). -/
def State.writeCtrl (s : State) (w : Word) : State :=
  if w.getLsbD 1 then s.softReset else { s with irqEn := w.getLsbD 0 }

/-- A host write of `MD_LEN` (10_state.md R27): bits 12:0, at most 4096. That the reserved bits are dropped before the value
is compared with 4096, so that a write of 0x2000 reads back as 0, is DEDUCED (log 26). -/
def clampMdLen (w : Word) : BitVec 13 :=
  if mdBytes < (w.extractLsb' 0 13).toNat then BitVec.ofNat 13 mdBytes else w.extractLsb' 0 13

/-- A 32-bit host write of a register (20_memory.md R70); reserved bits, read-only fields and reserved offsets ignore
it. -/
def State.writeReg (s : State) (a : Nat) (w : Word) : State :=
  match a with
  | 0x000 => s.writeCtrl w
  | 0x004 => s.writeStatus w
  | 0x008 => if s.status.busy then s.overrun else s.startCommand w
  | 0x010 => { s with bitpos := w.extractLsb' 0 15 }
  | 0x014 => { s with mdLen := clampMdLen w }
  | 0x018 => { s with cfg := w.extractLsb' 0 8 }
  | 0x020 => s.setChan .c0 { s.chan0 with gcd0 := w.extractLsb' 0 31 }
  | 0x024 => s.setChan .c0 { s.chan0 with gcd1 := w.extractLsb' 0 28 }
  | 0x028 => s.setChan .c0 { s.chan0 with gcd2 := w.extractLsb' 0 9 }
  | 0x02C => s.setChan .c0 { s.chan0 with part2Start := w.extractLsb' 0 15 }
  | 0x030 => s.setChan .c1 { s.chan1 with gcd0 := w.extractLsb' 0 31 }
  | 0x034 => s.setChan .c1 { s.chan1 with gcd1 := w.extractLsb' 0 28 }
  | 0x038 => s.setChan .c1 { s.chan1 with gcd2 := w.extractLsb' 0 9 }
  | 0x03C => s.setChan .c1 { s.chan1 with part2Start := w.extractLsb' 0 15 }
  | 0x040 => { s with isillL := w.extractLsb' 0 21 }
  | 0x044 => { s with isillS := put s.isillS 0 (w.extractLsb' 0 12) }
  | 0x048 => { s with isillS := put s.isillS 1 (w.extractLsb' 0 12) }
  | 0x04C => { s with isillS := put s.isillS 2 (w.extractLsb' 0 12) }
  | _ => s

/-- Write one byte of a RAM (20_memory.md R70): `PCM` is read-only, the reserved offsets and the reserved bytes of `SF`
ignore writes. -/
def State.writeByte (s : State) (a : Nat) (b : Byte) : State :=
  match regionOf a with
  | .sf =>
    s.setChan (sfChannel a)
      { s.chan (sfChannel a) with sf := put (s.chan (sfChannel a)).sf ((a - 0x100) % 0x40) b }
  | .md => { s with mem := Memory.insert s.mem a b }
  | .isi =>
    let c := s.chan (isiChannel a)
    s.setChan (isiChannel a)
      { c with isi := put c.isi (isiIndex a) (setHalfByte (look c.isi (isiIndex a) 0) (a % 2) b) }
  | .regs | .pcm | .reserved => s

/-- A host write of `n` bytes of a RAM, little-endian (20_memory.md R66). -/
def State.writeBytes (s : State) (a n : Nat) (w : Word) : State :=
  (List.range n).foldl (fun s k => s.writeByte (a + k) (byteOf w k)) s

/-- A host write (20_memory.md R70). -/
def State.busWrite (s : State) (w : Width) (a : Nat) (val : Word) : State :=
  match regionOf a with
  | .regs => s.writeReg a val
  | .sf | .md | .pcm | .isi | .reserved => s.writeBytes a w.bytes val

/-- The accesses allowed while `BUSY = 1` (70_reset_and_hazards.md R255): reads of `STATUS`, `CTRL`, `ERRINFO`, writes of
`CTRL`, `STATUS`, and the overrun write of `CMD`. -/
def busyAllowed : Access → Bool
  | .read _ off => decide (off.toNat = 0x000 ∨ off.toNat = 0x004 ∨ off.toNat = 0x00C)
  | .write _ off _ => decide (off.toNat = 0x000 ∨ off.toNat = 0x004 ∨ off.toNat = 0x008)

/-- The width and offset of an access are legal (20_memory.md R67). -/
def Access.legal : Access → Bool
  | .read w off => accessOk w off
  | .write w off _ => accessOk w off

/-- The effect of a legal access; no read has a side effect (20_memory.md R68), its result goes to the host (log 8). -/
def State.access (s : State) (a : Access) : State :=
  match a with
  | .read w off => { s with busData := s.busRead off.toNat w.bytes }
  | .write w off val => s.busWrite w off.toNat val

/-- One host access (20_memory.md R67, 70_reset_and_hazards.md R255). -/
def hostAccess (a : Access) (s : State) : Host.Outcome State Fault Refusal :=
  if !a.legal then .refused .badAccess
  else if s.status.busy && !busyAllowed a then .refused .busyHazard
  else .next (s.access a)

/-- The lines of a host program (30_encoding.md R87). -/
inductive HostLine where
  | wr (off : Offset) (val : Word)
  | wrh (off : Offset) (val : Word)
  | wrb (off : Offset) (val : Word)
  | rd (off : Offset)
  | rdh (off : Offset)
  | poll
  | cmd (i : Instr)
  | huff (ch : Ch) (start : Word)
deriving DecidableEq, Repr

/-- An access made when no command is running. -/
def idle (a : Access) : HostEvent := .access false a

end Sys2Proof.Machine
end

