-- ==== Sys2Proof/Machine/Hybrid.lean ====
section
/-! DEFINITION. ANTIALIAS, IMDCT with windowing and overlap-add, and FREQINV (42_hybrid.md). -/

namespace Sys2Proof.Machine

/-- `1 / sqrt(1 + CI[i]^2)`, `cs[i]` (42_hybrid.md R161). -/
def antialiasCs (i : Nat) : Formula :=
  .div (.rat 1) (.sqrt (1 + antialiasCi.getD i 0 * antialiasCi.getD i 0))

/-- `CI[i] / sqrt(1 + CI[i]^2)`, `ca[i]` (42_hybrid.md R161). -/
def antialiasCa (i : Nat) : Formula :=
  .div (.rat (antialiasCi.getD i 0)) (.sqrt (1 + antialiasCi.getD i 0 * antialiasCi.getD i 0))

/-- `N`, the boundaries anti-aliased: none on a pure short block, 1 on a mixed one, 31 on a long one (42_hybrid.md
R160). -/
def antialiasBoundaries (c : Channel) : Nat := if c.pureShort then 0 else if c.mixed then 1 else 31

/-- Line `i` after ANTIALIAS (42_hybrid.md R160). Boundary `k` pairs line `18k-1-j` with line `18k+j`, j in 0..8; each
butterfly reads the values before its writes, and no line is in two. -/
def antialiasLine (c : Channel) (i : Nat) : Rat :=
  let sb := i / 18
  let t := i % 18
  if 10 ≤ t ∧ sb + 1 ≤ antialiasBoundaries c then
    let j := 17 - t
    fp (.sub (.mul (.rat (c.xrLine i)) (antialiasCs j)) (.mul (.rat (c.xrLine (18 * (sb + 1) + j))) (antialiasCa j)))
  else if t < 8 ∧ 1 ≤ sb ∧ sb ≤ antialiasBoundaries c then
    fp (.add (.mul (.rat (c.xrLine i)) (antialiasCs t)) (.mul (.rat (c.xrLine (18 * sb - 1 - t))) (antialiasCa t)))
  else c.xrLine i

/-- ANTIALIAS on one channel (42_hybrid.md R160). -/
def antialiasEffect (s : State) (ch : Ch) : State := s.setXr ch (Vector.ofFn fun i => antialiasLine (s.chan ch) i.val)

/-- ANTIALIAS (42_hybrid.md R160; OutOfRange by 10_state.md R44, log 13). -/
def execAntialias (all : Bool) (ch : Ch) (s : State) : Host.Outcome State Fault Refusal :=
  finish (perChannel splitCheck antialiasEffect all ch s)

/-- The long windows `WIN[wt][i]`, wt 0, 1 or 3 (42_hybrid.md R168). -/
def longWindow (wt i : Nat) : Formula :=
  let sine36 : Formula := .sinPi (mkRat (2 * i + 1) 72)
  if wt = 1 then
    if i < 18 then sine36
    else if i < 24 then .rat 1
    else if i < 30 then .sinPi (mkRat (2 * ((i : Int) - 18) + 1) 24)
    else .rat 0
  else if wt = 3 then
    if i < 6 then .rat 0
    else if i < 12 then .sinPi (mkRat (2 * ((i : Int) - 6) + 1) 24)
    else if i < 18 then .rat 1
    else sine36
  else sine36

/-- The short window `WSH[p]` (42_hybrid.md R168). -/
def shortSine (p : Nat) : Formula := .sinPi (mkRat (2 * p + 1) 24)

/-- The 36-point transform, `sum_k X[k] * cos(pi/72 * (2i + 1 + 18) * (2k + 1))` (42_hybrid.md R166). -/
def longTransform (x : Nat → Rat) (i : Nat) : Formula :=
  .sum ((List.range 18).map fun (k : Nat) => .mul (.rat (x k)) (.cosPi (mkRat ((2 * i + 1 + 18) * (2 * k + 1)) 72)))

/-- The 12-point transform of window `w`, `sum_m X[w+3m] * cos(pi/24 * (2p + 1 + 6) * (2m + 1))` (42_hybrid.md R167). -/
def shortTransform (x : Nat → Rat) (w p : Nat) : Formula :=
  .sum ((List.range 6).map fun (m : Nat) => .mul (.rat (x (w + 3 * m))) (.cosPi (mkRat ((2 * p + 1 + 6) * (2 * m + 1)) 24)))

/-- `y[i]` of a long subband (42_hybrid.md R165). -/
def longOutput (wt : Nat) (x : Nat → Rat) (i : Nat) : Rat := fp (.mul (longWindow wt i) (longTransform x i))

/-- What window `w` adds to `y[i]` of a short subband: it covers `SHORT_BASE + 6w .. SHORT_BASE + 6w + 12` (42_hybrid.md
R165, R167). -/
def shortAccumulate (x : Nat → Rat) (i : Nat) (y : Rat) (w : Nat) : Rat :=
  let start := shortBase + 6 * w
  if start ≤ i ∧ i < start + 12 then
    fp (.add (.rat y) (.mul (shortSine (i - start)) (shortTransform x w (i - start))))
  else y

/-- `y[i]` of a short subband: the three windows in order, from 0 (42_hybrid.md R165). -/
def shortOutput (x : Nat → Rat) (i : Nat) : Rat := [0, 1, 2].foldl (shortAccumulate x i) 0

/-- The window type of a long subband: 0 in a mixed block (42_hybrid.md R165, R168). -/
def windowType (c : Channel) : Nat := if c.mixed then 0 else c.bt

/-- `y[i]`, i in 0..36, of subband `sb` (42_hybrid.md R165). -/
def imdctOutput (c : Channel) (sb i : Nat) : Rat :=
  let x (k : Nat) : Rat := c.xrLine (18 * sb + k)
  if c.subbandShort sb then shortOutput x i else longOutput (windowType c) x i

/-- The channel after IMDCT (42_hybrid.md R165, R169): overlap-add into `XR`, the second half into `PREV`. -/
def imdctChannel (c : Channel) : Channel :=
  { c with
    xr := Vector.ofFn fun i =>
      fp (.add (.rat (imdctOutput c (i.val / 18) (i.val % 18))) (.rat (c.prevAt (i.val / 18) (i.val % 18))))
    prev := Vector.ofFn fun sb => Vector.ofFn fun n => imdctOutput c sb.val (n.val + 18) }

/-- IMDCT on one channel (42_hybrid.md R165). -/
def imdctEffect (s : State) (ch : Ch) : State := s.setChan ch (imdctChannel (s.chan ch))

/-- IMDCT (42_hybrid.md R165; OutOfRange by 10_state.md R44, log 13). -/
def execImdct (all : Bool) (ch : Ch) (s : State) : Host.Outcome State Fault Refusal :=
  finish (perChannel splitCheck imdctEffect all ch s)

/-- FREQINV on one channel (42_hybrid.md R175): odd positions of odd subbands are negated. -/
def freqinvEffect (s : State) (ch : Ch) : State :=
  s.setXr ch (Vector.ofFn fun i =>
    if i.val / 18 % 2 = 1 ∧ i.val % 18 % 2 = 1 then -(s.chan ch).xr[i] else (s.chan ch).xr[i])

/-- FREQINV (42_hybrid.md R175). -/
def execFreqinv (all : Bool) (ch : Ch) (s : State) : Host.Outcome State Fault Refusal :=
  finish (perChannel noCheck freqinvEffect all ch s)

end Sys2Proof.Machine
end

