-- ==== Sys2Proof/Machine/Requant.lean ====
section
/-! DEFINITION. REQUANT and REORDER (41_requant_stereo.md R130 to R140). -/

namespace Sys2Proof.Machine

/-- `sign(x)` (00_scope.md R13). -/
def signOf (x : Int) : Int := if x < 0 then -1 else if x = 0 then 0 else 1

/-- `2 ^ (num / den)`. -/
def twoTo (num : Int) (den : Nat) : Formula := .pow 2 (mkRat num den)

/-- The scalefactor of a long line's band with its pretab bonus (41_requant_stereo.md R133); band 21 has scalefactor 0
(R135). -/
def longScale (c : Channel) (b : Nat) : Nat :=
  (if b < 21 then c.sfByte b else 0) + (if c.preflag then pretab.getD b 0 else 0)

/-- The scalefactor of a short line's band and window (41_requant_stereo.md R134); band 12 has scalefactor 0 (R135). -/
def shortScale (c : Channel) (b w : Nat) : Nat := if b < 12 then c.sfByte (22 + 3 * b + w) else 0

/-- Four times the exponent of 2 in the requantization of line `i`: `global_gain - 210`, less four times
`scalefac_multiplier * (scalefac + preflag_bonus)`, less four times `SBG_EXP * subblock_gain` on a short line
(41_requant_stereo.md R131 to R134). -/
def gainQuarters (s : State) (c : Channel) (i : Nat) : Int :=
  let m4 : Nat := if c.sfScale then 4 else 2
  let common : Int := (c.globalGain : Int) - 210
  if c.lineShort i then
    let b := shortBand s.shortTable i
    let w := shortWindow s.shortTable i
    common - 4 * (sbgExp * c.subblockGain w : Nat) - (m4 * shortScale c b w : Nat)
  else common - (m4 * longScale c (longBand s.longTable i) : Nat)

/-- The exact value of a requantized line (41_requant_stereo.md R130, R132): `sign(n) * |n|^(4/3)` times the power of 2
whose exponents the rule writes as separate factors. -/
def requantFormula (s : State) (c : Channel) (i : Nat) : Formula :=
  let n := c.isiLine i
  .mul (.mul (.rat (signOf n)) (.pow n.natAbs (mkRat 4 3))) (twoTo (gainQuarters s c i) 4)

/-- OutOfRange of REQUANT (41_requant_stereo.md R130). -/
def requantCheck (s : State) (ch : Ch) : Option CmdError :=
  if !s.tablesOk || !splitUsable s ch then some (outOfRange s ch.isOne) else none

/-- REQUANT on one channel (41_requant_stereo.md R130). -/
def requantEffect (s : State) (ch : Ch) : State :=
  s.setXr ch (Vector.ofFn fun i => fp (requantFormula s (s.chan ch) i.val))

/-- REQUANT (41_requant_stereo.md R130). -/
def execRequant (all : Bool) (ch : Ch) (s : State) : Host.Outcome State Fault Refusal :=
  finish (perChannel requantCheck requantEffect all ch s)

/-- OutOfRange of REORDER (41_requant_stereo.md R140): the mixed split is checked only on a short block. -/
def reorderCheck (s : State) (ch : Ch) : Option CmdError :=
  if !s.tablesOk || !splitUsable s ch then some (outOfRange s ch.isOne) else none

/-- Where REORDER takes line `i` from (41_requant_stereo.md R140): in short band `b`, line `base + 3j + w` takes the old
line `base + w*width + j`. -/
def reorderSource (S : List Nat) (i : Nat) : Nat :=
  let b := shortBand S i
  let base := 3 * entry S b
  base + (i - base) % 3 * shortWidth S b + (i - base) / 3

/-- REORDER on one channel (41_requant_stereo.md R140): the short lines are permuted, the others stay. -/
def reorderEffect (s : State) (ch : Ch) : State :=
  s.setXr ch (Vector.ofFn fun i =>
    if (s.chan ch).lineShort i.val then (s.chan ch).xrLine (reorderSource s.shortTable i.val) else (s.chan ch).xr[i])

/-- REORDER (41_requant_stereo.md R140). -/
def execReorder (all : Bool) (ch : Ch) (s : State) : Host.Outcome State Fault Refusal :=
  finish (perChannel reorderCheck reorderEffect all ch s)

end Sys2Proof.Machine
end

