-- ==== Sys2Proof/Machine/Stereo.lean ====
section
/-! DEFINITION. STEREO (41_requant_stereo.md R145 to R151): the mid-side and intensity matrix. -/

namespace Sys2Proof.Machine

/-- 1 + the long band of the right channel's highest nonzero line, or 0 (`bL` of 41_requant_stereo.md R147). -/
def longBoundary (L : List Nat) (c : Channel) : Nat :=
  match (List.range 576).reverse.find? (fun i => decide (c.isiLine i ≠ 0)) with
  | some i => longBand L i + 1
  | none => 0

/-- Does short band `b`, window `w`, hold a nonzero line, before reorder (41_requant_stereo.md R147, R134)? -/
def shortBandNonzero (S : List Nat) (c : Channel) (b w : Nat) : Bool :=
  (List.range (shortWidth S b)).any (fun j => decide (c.isiLine (3 * entry S b + w * shortWidth S b + j) ≠ 0))

/-- 1 + the highest short band with a nonzero line in window `w`, or 0; at least 3 in a mixed block (`bS[w]` of
41_requant_stereo.md R147). -/
def shortBoundary (S : List Nat) (c : Channel) (w : Nat) : Nat :=
  let b := match (List.range 13).reverse.find? (fun b => shortBandNonzero S c b w) with
    | some b => b + 1
    | none => 0
  if c.mixed then max 3 b else b

/-- `is_pos` and the legality bit of a long band (41_requant_stereo.md R148, R150): band 21 takes those of band 20. -/
def longPosition (s : State) (b : Nat) : Nat × Bool :=
  (s.chan1.sfByte (min b 20), s.isillL.getLsbD (min b 20))

/-- `is_pos` and the legality bit of a short band (41_requant_stereo.md R148, R150): band 12 takes those of band 11. -/
def shortPosition (s : State) (b w : Nat) : Nat × Bool :=
  (s.chan1.sfByte (22 + 3 * min b 11 + w), (look s.isillS w 0).getLsbD (min b 11))

/-- The intensity factors of MPEG-1 (41_requant_stereo.md R149): `none` is an illegal position. -/
def factorsMpeg1 (p : Nat) : Option (Formula × Formula) :=
  if 7 ≤ p then none
  else if p = 6 then some (.rat 1, .rat 0)
  else
    let ratio : Formula := .tanPi (mkRat p 12)
    some (.div ratio (.add (.rat 1) ratio), .div (.rat 1) (.add (.rat 1) ratio))

/-- The intensity factors of MPEG-2 and 2.5 (41_requant_stereo.md R150): `io^k` is `2^(-k/4)`, or `2^(-k/2)` when
`INT_SCALE` is 1. -/
def factorsMpeg2 (intScale illegal : Bool) (p : Nat) : Option (Formula × Formula) :=
  let io (k : Nat) : Formula := .pow 2 (mkRat (-(k : Int)) (if intScale then 2 else 4))
  if illegal then none
  else if p = 0 then some (.rat 1, .rat 1)
  else if p % 2 = 1 then some (io ((p + 1) / 2), .rat 1)
  else some (.rat 1, io (p / 2))

/-- The factors for a position with its legality bit (41_requant_stereo.md R149, R150). -/
def intensityFactors (s : State) (p : Nat × Bool) : Option (Formula × Formula) :=
  if s.version = 0 then factorsMpeg1 p.1 else factorsMpeg2 s.chan1.intScale p.2 p.1

/-- `ISset` at line `i` (41_requant_stereo.md R145, R147): the factors of the line's band if it is a candidate of the
right channel's class and legal. Short candidates are addressed in the reordered layout `3*S[b] + 3*j + w`. -/
def intensityLine (s : State) (i : Nat) : Option (Formula × Formula) :=
  if s.chan1.lineShort i then
    let b := shortBand s.shortTable i
    let w := (i - 3 * entry s.shortTable b) % 3
    if shortBoundary s.shortTable s.chan1 w ≤ b then intensityFactors s (shortPosition s b w) else none
  else if s.chan1.short then none
  else
    let b := longBand s.longTable i
    if longBoundary s.longTable s.chan1 ≤ b then intensityFactors s (longPosition s b) else none

/-- One line of the stereo matrix (41_requant_stereo.md R145, R146), from the left and right values. -/
def stereoLine (isf : Option (Formula × Formula)) (ms : Bool) (l r : Rat) : Rat × Rat :=
  match isf with
  | some (kL, kR) => (fp (.mul (.rat l) kL), fp (.mul (.rat l) kR))
  | none =>
    if ms then
      (fp (.div (.add (.rat l) (.rat r)) (.sqrt 2)), fp (.div (.sub (.rat l) (.rat r)) (.sqrt 2)))
    else (l, r)

/-- The two values line `i` becomes (41_requant_stereo.md R145, R151). -/
def stereoPair (s : State) (i : Nat) : Rat × Rat :=
  stereoLine (if s.isOn then intensityLine s i else none) s.msOn (s.chan0.xrLine i) (s.chan1.xrLine i)

/-- The matrix over all lines (41_requant_stereo.md R145). -/
def stereoEffect (s : State) : State :=
  (s.setXr .c0 (Vector.ofFn fun i => (stereoPair s i.val).1)).setXr .c1 (Vector.ofFn fun i => (stereoPair s i.val).2)

/-- OutOfRange of STEREO: a reserved version or sample rate (41_requant_stereo.md R145), or a mixed block, of either
channel, that the table row cannot split (10_state.md R44, 60_exceptions.md R230; log 13). -/
def stereoOutOfRange (s : State) : Bool := !s.tablesOk || !splitUsable s .c0 || !splitUsable s .c1

/-- The body of STEREO (41_requant_stereo.md R145); `ERRINFO.CH` of its error is a free bit (log 15). -/
def stereoBody (s : State) : CmdResult :=
  if s.chMode ≠ 1 then .ok s
  else if stereoOutOfRange s then .err (outOfRange s (Config.freeErrChannel s.draws)) { s with draws := s.draws + 1 }
  else .ok (stereoEffect s)

/-- STEREO (41_requant_stereo.md R145). -/
def execStereo (s : State) : Host.Outcome State Fault Refusal := finish (stereoBody s)

end Sys2Proof.Machine
end

