-- ==== Sys2Proof/Machine/Synthesis.lean ====
section
/-! DEFINITION. SYNTH (43_synthesis.md): the polyphase synthesis bank and the PCM output. -/

namespace Sys2Proof.Machine

/-- `sum_k NM[i][k] * Sb[k]` with `NM[i][k] = cos((2k+1)(i+16)pi/64)` and `Sb[k]` line `18k + t` (43_synthesis.md
R192). -/
def matrixFormula (c : Channel) (t i : Nat) : Formula :=
  .sum ((List.range 32).map fun (k : Nat) => .mul (.cosPi (mkRat ((2 * k + 1) * (i + 16)) 64)) (.rat (c.xrLine (18 * k + t))))

/-- `V` after the shift and the matrixing of row `t` (43_synthesis.md R190 to R192). -/
def synthShift (c : Channel) (v : Vector Rat 1024) (t : Nat) : Vector Rat 1024 :=
  Vector.ofFn fun i => if i.val < 64 then fp (matrixFormula c t i.val) else look v (i.val - 64) 0

/-- `U[i]` (43_synthesis.md R193): of each 128-value group of `V`, the first and the last 32-value blocks. -/
def gathered (v : Vector Rat 1024) (i : Nat) : Rat :=
  if i % 64 < 32 then look v (128 * (i / 64) + i % 64) 0 else look v (128 * (i / 64) + 96 + (i % 64 - 32)) 0

/-- `Wv[i]` (43_synthesis.md R194). -/
def windowed (v : Vector Rat 1024) (i : Nat) : Rat := fp (.mul (.rat (gathered v i)) (.rat (Config.synthWindow i)))

/-- `o[j]`, output `j` of a row (43_synthesis.md R195). -/
def synthOutput (v : Vector Rat 1024) (j : Nat) : Rat :=
  fp (.sum ((List.range 16).map fun (r : Nat) => .rat (windowed v (j + 32 * r))))

/-- `CONV`, truncation toward zero (43_synthesis.md R196, D37). -/
def truncate (q : Rat) : Int := q.num.tdiv q.den

/-- `sat16` (00_scope.md R13). -/
def sat16 (x : Int) : Int := max (-32768) (min 32767 x)

/-- The int16 code of an output (43_synthesis.md R196): `sat16(CONV(o * PCM_SCALE))`, the product exact. -/
def pcmCode (o : Rat) : Half :=
  BitVec.ofInt 16 (sat16 (truncate (((Formula.mul (.rat o) (.rat Config.pcmScale)).exact?).getD 0)))

/-- The 32 samples of a row (43_synthesis.md R190). -/
def synthBlock (v : Vector Rat 1024) : Vector Half 32 := Vector.ofFn fun j => pcmCode (synthOutput v j.val)

/-- The rows of the list in order (43_synthesis.md R190): `V` after them, and their samples. -/
def synthRows (c : Channel) : List Nat → Vector Rat 1024 → Vector Rat 1024 × List (Vector Half 32)
  | [], v => (v, [])
  | t :: ts, v =>
    let v' := synthShift c v t
    let rest := synthRows c ts v'
    (rest.1, synthBlock v' :: rest.2)

/-- Sample `n` of the blocks of a granule: sample `n mod 32` of row `n div 32` (43_synthesis.md R190, R195). -/
def sampleAt (blocks : List (Vector Half 32)) (n : Nat) : Half :=
  look (blocks.getD (n / 32) (Vector.replicate 32 0)) (n % 32) 0

/-- `PCM[n]` with channel `ch`'s sample written; a mono stream writes both slots (43_synthesis.md R197). -/
def pcmWrite (mono : Bool) (ch : Ch) (old : Half × Half) (x : Half) : Half × Half :=
  if mono then (match ch with | .c0 => (x, x) | .c1 => (old.1, x))
  else match ch with
    | .c0 => (x, old.2)
    | .c1 => (old.1, x)

/-- SYNTH on one channel (43_synthesis.md R190). -/
def synthEffect (s : State) (ch : Ch) : State :=
  let rows := synthRows (s.chan ch) (List.range 18) (s.chan ch).v
  { s.setChan ch { s.chan ch with v := rows.1 } with
    pcm := Vector.ofFn fun n => pcmWrite (decide (s.nch = 1)) ch s.pcm[n] (sampleAt rows.2 n.val) }

/-- SYNTH (43_synthesis.md R190). -/
def execSynth (all : Bool) (ch : Ch) (s : State) : Host.Outcome State Fault Refusal :=
  finish (perChannel noCheck synthEffect all ch s)

end Sys2Proof.Machine
end

