-- ==== Sys2Proof/Machine/Control.lean ====
section
/-! DEFINITION. NOP, CLEARHIST, SILENCE and BACKEND (44_control.md). -/

namespace Sys2Proof.Machine

/-- NOP (44_control.md R210): `DONE` only. -/
def execNop (s : State) : Host.Outcome State Fault Refusal := finish (.ok s)

/-- CLEARHIST on one channel (44_control.md R211). -/
def clearhistEffect (s : State) (ch : Ch) : State :=
  s.setChan ch
    { s.chan ch with
      prev := Vector.replicate 32 (Vector.replicate 18 0)
      v := Vector.replicate 1024 0 }

/-- CLEARHIST (44_control.md R211). -/
def execClearhist (all : Bool) (ch : Ch) (s : State) : Host.Outcome State Fault Refusal :=
  finish (perChannel noCheck clearhistEffect all ch s)

/-- SILENCE (44_control.md R212): the PCM buffer to zero, nothing else. -/
def execSilence (s : State) : Host.Outcome State Fault Refusal :=
  finish (.ok { s with pcm := Vector.replicate 576 (0, 0) })

/-- The first steps of BACKEND on each channel: REQUANT, REORDER (44_control.md R213). -/
def backendFront (chs : List Ch) (r : CmdResult) : CmdResult :=
  chs.foldl
    (fun r ch =>
      (r.andThen (oneChannel requantCheck requantEffect ch)).andThen (oneChannel reorderCheck reorderEffect ch))
    r

/-- The last steps of BACKEND on each channel: ANTIALIAS, IMDCT, FREQINV, SYNTH (44_control.md R213). -/
def backendBack (chs : List Ch) (r : CmdResult) : CmdResult :=
  chs.foldl
    (fun r ch =>
      (((r.andThen (oneChannel splitCheck antialiasEffect ch)).andThen (oneChannel splitCheck imdctEffect ch)).andThen
        (oneChannel noCheck freqinvEffect ch)).andThen (oneChannel noCheck synthEffect ch))
    r

/-- The body of BACKEND (44_control.md R213). -/
def backendBody (s : State) : CmdResult :=
  backendBack s.channels ((backendFront s.channels (.ok s)).andThen stereoBody)

/-- BACKEND (44_control.md R213). -/
def execBackend (s : State) : Host.Outcome State Fault Refusal := finish (backendBody s)

end Sys2Proof.Machine
end

