-- ==== Sys2Proof/Machine/Huffman.lean ====
section
/-! DEFINITION. The bit reader (20_memory.md R60 to R64) and the Huffman spectrum decoder, HUFF (40_huffman.md). -/

namespace Sys2Proof.Machine

/-- The bit reader's state (20_memory.md R60): the cursor and the out-of-bounds latch of this HUFF. -/
structure Reader where
  bitpos : BitVec 15
  oob : Bool
deriving DecidableEq, Repr

/-- Is bit `p` of the bit string outside the valid main data (20_memory.md R63)? -/
def State.bitOutside (s : State) (p : Nat) : Bool := decide (s.mdLen.toNat ≤ p / 8)

/-- Bit `p` of the main-data RAM's bit string (20_memory.md R61), 0 when it is out of bounds (R63). -/
def State.stringBit (s : State) (p : Nat) : Bool := !s.bitOutside p && (s.mdByte (p / 8)).getLsbD (7 - p % 8)

/-- Advance the cursor to bit `p`; past 32767 it wraps modulo 2^15 and latches `OOB` (20_memory.md R64; log 12). -/
def Reader.moveTo (r : Reader) (p : Nat) : Reader :=
  { bitpos := BitVec.ofNat 15 p, oob := r.oob || decide (32767 < p) }

/-- `ReadBits(n)` (20_memory.md R62). -/
def readBits (s : State) (n : Nat) (r : Reader) : Nat × Reader :=
  let p := r.bitpos.toNat
  ( (List.range n).foldl (fun v k => 2 * v + (s.stringBit (p + k)).toNat) 0,
    { r with oob := r.oob || (List.range n).any (fun k => s.bitOutside (p + k)) }.moveTo (p + n) )

/-- `DecodeCode` (40_huffman.md R105): read bits until they form a codeword, at most `fuel` more of them. `none` is no
prefix match. -/
def decodeCode {α : Type} (s : State) (table : List (List Bool × α)) : Nat → List Bool → Reader → Option α × Reader
  | 0, _, r => (none, r)
  | fuel + 1, pre, r =>
    let (b, r') := readBits s 1 r
    let pre' := pre ++ [decide (b = 1)]
    match table.lookup pre' with
    | some v => (some v, r')
    | none => decodeCode s table fuel pre' r'

/-- `MAXLEN(t)` (40_huffman.md R105). -/
def maxLen {α : Type} (table : List (List Bool × α)) : Nat := table.foldl (fun m e => max m e.1.length) 0

/-- An escape: the value 15 of a table with linbits has that many more bits (40_huffman.md R106). -/
def readEscape (s : State) (lb : Nat) (v : Int) (r : Reader) : Int × Reader :=
  if 0 < lb ∧ v = 15 then
    let (e, r') := readBits s lb r
    (v + e, r')
  else (v, r)

/-- A nonzero value has a sign bit, 1 for negative (40_huffman.md R106, R109). -/
def readSign (s : State) (v : Int) (r : Reader) : Int × Reader :=
  if v ≠ 0 then
    let (b, r') := readBits s 1 r
    (if b = 1 then -v else v, r')
  else (v, r)

/-- The entries of big-value table `t`, codeword to pair. -/
def pairTable (t : Nat) : List (List Bool × (Nat × Nat)) :=
  (huffTable t).map (fun e => (e.code, (e.x.toNat, e.y.toNat)))

/-- `DecodePair` (40_huffman.md R104, R106): table 0 reads no bit, tables 4 and 14 do not exist, and otherwise: codeword,
x escape, x sign, y escape, y sign. -/
def decodePair (s : State) (t : Nat) (r : Reader) : Option (Int × Int) × Reader :=
  if t = 0 then (some (0, 0), r)
  else if t = 4 ∨ t = 14 then (none, r)
  else
    match decodeCode s (pairTable t) (maxLen (pairTable t)) [] r with
    | (none, r1) => (none, r1)
    | (some (x0, y0), r1) =>
      let (x1, r2) := readEscape s (linbits t) x0 r1
      let (x, r3) := readSign s x1 r2
      let (y1, r4) := readEscape s (linbits t) y0 r3
      let (y, r5) := readSign s y1 r4
      (some (x, y), r5)

/-- The value `h` of a quadruple (40_huffman.md R109): table B is the complement of 4 bits, table A a prefix code. -/
def decodeQuadCode (s : State) (tableB : Bool) (r : Reader) : Option Nat × Reader :=
  if tableB then
    let (b, r') := readBits s 4 r
    (some (15 - b), r')
  else decodeCode s quadTableA (maxLen quadTableA) [] r

/-- `DecodeQuad` (40_huffman.md R109): the code, then the signs of v, w, x, y in this order. -/
def decodeQuad (s : State) (tableB : Bool) (r : Reader) : Option (Int × Int × Int × Int) × Reader :=
  match decodeQuadCode s tableB r with
  | (none, r0) => (none, r0)
  | (some h, r0) =>
    let (v, r1) := readSign s ((h / 8 % 2 : Nat) : Int) r0
    let (w, r2) := readSign s ((h / 4 % 2 : Nat) : Int) r1
    let (x, r3) := readSign s ((h / 2 % 2 : Nat) : Int) r2
    let (y, r4) := readSign s ((h % 2 : Nat) : Int) r3
    (some (v, w, x, y), r4)

/-- The region boundaries (40_huffman.md R102). -/
def regions (s : State) (c : Channel) : Nat × Nat :=
  if c.short then (36, 576)
  else
    let j := c.region0 + c.region1 + 2
    (entry s.longTable (c.region0 + 1), if j ≤ 22 then entry s.longTable j else 576)

/-- The table of a pair at line `p` (40_huffman.md R103). -/
def tableFor (c : Channel) (r : Nat × Nat) (p : Nat) : Nat :=
  if p < r.1 then c.tsel0 else if p < r.2 then c.tsel1 else c.tsel2

/-- A decode in progress: the lines so far, the next line `is_pos`, and the reader. -/
structure HuffRun where
  isi : Vector Half 576
  pos : Nat
  rd : Reader
deriving DecidableEq, Repr

/-- Store a decoded line, a value of at most 8206 in magnitude (40_huffman.md R107), as an `s16`. -/
def HuffRun.store (h : HuffRun) (v : Int) : HuffRun :=
  { h with isi := put h.isi h.pos (BitVec.ofInt 16 v), pos := h.pos + 1 }

/-- The big-values loop (40_huffman.md R108), `n` pairs to go. An error carries the decode as it stood at the pair. -/
def pairsLoop (s : State) (c : Channel) : Nat → HuffRun → Except HuffRun HuffRun
  | 0, h => .ok h
  | n + 1, h =>
    match decodePair s (tableFor c (regions s c) h.pos) h.rd with
    | (none, r) => .error { h with rd := r }
    | (some (x, y), r) => pairsLoop s c n (({ h with rd := r }.store x).store y)

/-- `end + 1`, the first bit after the bit region (40_huffman.md R101). -/
def Channel.regionEnd (c : Channel) : Nat := c.part2Start.toNat + c.part23Len

/-- The quadruple loop (40_huffman.md R110), at most `fuel` quadruples to go; `BITPOS <= end` is `BITPOS < end + 1`. -/
def quadsLoop (s : State) (c : Channel) : Nat → HuffRun → Except HuffRun HuffRun
  | 0, h => .ok h
  | fuel + 1, h =>
    if h.pos < count1Stop ∧ h.rd.bitpos.toNat < c.regionEnd then
      match decodeQuad s c.c1tsel h.rd with
      | (none, r) => .error { h with rd := r }
      | (some (v, w, x, y), r) =>
        quadsLoop s c fuel ((((({ h with rd := r }.store v).store w).store x).store y))
    else .ok h

/-- The decode of one channel's spectrum (40_huffman.md R100), from its descriptor and the cursor; 144 quadruples fill
every line. The latch starts at 0, so that it tells what this HUFF read. -/
def huffDecode (s : State) (ch : Ch) : Except HuffRun HuffRun :=
  match pairsLoop s (s.chan ch) (s.chan ch).bigValues
      { isi := (s.chan ch).isi, pos := 0, rd := { bitpos := s.bitpos, oob := false } } with
  | .error h => .error h
  | .ok h => quadsLoop s (s.chan ch) 144 h

/-- Set the cursor to bit `p`, modulo 2^15: no read and no advance, so nothing is latched (40_huffman.md R112,
60_exceptions.md R233; log 12). -/
def Reader.setTo (r : Reader) (p : Nat) : Reader := { r with bitpos := BitVec.ofNat 15 p }

/-- The roll-back and the end of decode (40_huffman.md R111, R112): undo one quadruple if the cursor overshot `end + 1`,
and set the cursor to `end + 1`. -/
def HuffRun.rollBack (h : HuffRun) (e : Nat) : HuffRun :=
  { h with
    pos := if e < h.rd.bitpos.toNat then h.pos - 4 else h.pos
    rd := h.rd.setTo e }

/-- The lines `i` of `0 .. pos` as decoded and the rest zero (40_huffman.md R112). -/
def HuffRun.lines (h : HuffRun) : Vector Half 576 :=
  Vector.ofFn fun i => if i.val < h.pos then h.isi[i] else 0

/-- Write the result of a decode into the state (40_huffman.md R100, R112); the latch keeps what it held before
(20_memory.md R63). DESIGN CHOICE (log 27): what it held before is the latch as it stands when the command ends, after any
host write of `STATUS` that landed while HUFF ran, and such a write clears nothing that this HUFF latches. -/
def huffWrite (s : State) (ch : Ch) (h : HuffRun) : State :=
  { s.setChan ch { s.chan ch with isi := h.lines, count1 := BitVec.ofNat 10 h.pos } with
    bitpos := h.rd.bitpos
    status := { s.status with oob := s.status.oob || h.rd.oob } }

/-- The lines after InvalidHuffmanCode (40_huffman.md R105): those before `is_pos` as decoded, the rest free. -/
def HuffRun.brokenLines (h : HuffRun) (draw : Nat) : Vector Half 576 :=
  Vector.ofFn fun i => if i.val < h.pos then h.isi[i] else Config.freeIsi draw i.val

/-- The state after InvalidHuffmanCode (40_huffman.md R105): the tail of `ISI`, `COUNT1` and `BITPOS` are free values; the
latch keeps what the reads of this HUFF latched (20_memory.md R63; log 10, log 11, log 27). -/
def huffBroken (s : State) (ch : Ch) (h : HuffRun) : State :=
  { s.setChan ch
      { s.chan ch with isi := h.brokenLines s.draws, count1 := Config.freeCount1 s.draws } with
    bitpos := Config.freeBitpos s.draws
    status := { s.status with oob := s.status.oob || h.rd.oob }
    draws := s.draws + 1 }

/-- OutOfRange of HUFF, before any state is written (40_huffman.md R113; for a mixed block that the table row cannot split,
10_state.md R44, log 13). -/
def huffCheck (s : State) (ch : Ch) : Option CmdError :=
  if 288 < (s.chan ch).bigValues || !s.tablesOk || !splitUsable s ch then some (outOfRange s ch.isOne) else none

/-- The body of HUFF for one channel (40_huffman.md R100, R113). -/
def huffBody (s : State) (ch : Ch) : CmdResult :=
  match huffCheck s ch with
  | some e => .err e s
  | none =>
    match huffDecode s ch with
    | .error h =>
      .err { kind := .invalidHuffmanCode, info := errInfo (BitVec.ofNat 10 h.pos) ch.isOne h.rd.bitpos } (huffBroken s ch h)
    | .ok h =>
      let g := h.rollBack (s.chan ch).regionEnd
      if g.rd.oob then
        .err { kind := .unexpectedEOF, info := errInfo (BitVec.ofNat 10 g.pos) ch.isOne g.rd.bitpos } (huffWrite s ch g)
      else .ok (huffWrite s ch g)

/-- HUFF (40_huffman.md R100). -/
def execHuff (ch : Ch) (s : State) : Host.Outcome State Fault Refusal :=
  finish (if channelsLegal s false ch then huffBody s ch else .err illegalCommand s)

end Sys2Proof.Machine
end

