-- ==== Sys2Proof/Machine/Dispatch.lean ====
section
/-! DEFINITION. The meaning of every command, one arm per constructor. -/

namespace Sys2Proof.Machine

def exec (i : Instr) (s : State) : Host.Outcome State Fault Refusal :=
  match i with
  | .nop => Sys2Proof.Machine.execNop s
  | .clearhist all ch => Sys2Proof.Machine.execClearhist all ch s
  | .huff ch => Sys2Proof.Machine.execHuff ch s
  | .requant all ch => Sys2Proof.Machine.execRequant all ch s
  | .reorder all ch => Sys2Proof.Machine.execReorder all ch s
  | .stereo => Sys2Proof.Machine.execStereo s
  | .antialias all ch => Sys2Proof.Machine.execAntialias all ch s
  | .imdct all ch => Sys2Proof.Machine.execImdct all ch s
  | .freqinv all ch => Sys2Proof.Machine.execFreqinv all ch s
  | .synth all ch => Sys2Proof.Machine.execSynth all ch s
  | .silence => Sys2Proof.Machine.execSilence s
  | .backend => Sys2Proof.Machine.execBackend s

end Sys2Proof.Machine
end

