-- ==== Sys2Proof/Machine/Engine.lean ====
section
/-! DEFINITION. What moves the block: the command engine ends the running command, the host makes its next access (log 7),
or nothing happens. -/

namespace Sys2Proof.Machine

/-- The engine ends the running command (10_state.md R57, 20_memory.md R73): a word that is no command raises
IllegalCommand (30_encoding.md R85), any other runs its meaning. -/
def runCommand (s : State) : Host.Outcome State Fault Refusal :=
  match decode s.cmd with
  | .ok i => exec i s
  | .error _ => finish (.err illegalCommand s)

/-- Does the event at the head of `inbox` come before the running command ends (log 7)? A hardware reset does. -/
def HostEvent.lands (busy : Bool) : HostEvent → Bool
  | .access whileBusy _ => !busy || whileBusy
  | .hardReset => true

/-- The effect of a host event. -/
def hostEvent (e : HostEvent) (s : State) : Host.Outcome State Fault Refusal :=
  match e with
  | .access _ a => hostAccess a s
  | .hardReset => .next s.hardReset

/-- The engine's turn: the running command ends; an idle block stays as it is (log 21). -/
def engineTurn (s : State) : Host.Outcome State Fault Refusal :=
  if s.status.busy then runCommand s else .next s

/-- One step: the next host event if it lands now, else the engine's turn. -/
def blockStep (s : State) : Host.Outcome State Fault Refusal :=
  match s.inbox with
  | [] => engineTurn s
  | e :: rest => if e.lands s.status.busy then hostEvent e { s with inbox := rest } else engineTurn s

/-- The block with command word `w` written to `CMD` and running, and nothing from the host before it ends. -/
def placeCommand (s : State) (w : Word) : State :=
  { s.startCommand w with inbox := s.inbox.dropWhile (fun e => e.lands true) }

/-- The host events of a line of a host program (30_encoding.md R87). `poll` repeats `rd 0x004` until `BUSY` is 0, that is,
reads `STATUS` once the command has ended; `cmd` is a write of `CMD` then `poll`; `huff` sets the cursor first. -/
def HostLine.events : HostLine → List HostEvent
  | .wr off val => [idle (.write .word off val)]
  | .wrh off val => [idle (.write .half off val)]
  | .wrb off val => [idle (.write .byte off val)]
  | .rd off => [idle (.read .word off)]
  | .rdh off => [idle (.read .half off)]
  | .poll => [idle (.read .word 0x004)]
  | .cmd i => [idle (.write .word 0x008 (encode i)), idle (.read .word 0x004)]
  | .huff ch start =>
    [idle (.write .word 0x010 start), idle (.write .word 0x008 (encode (.huff ch))), idle (.read .word 0x004)]

end Sys2Proof.Machine
end

