-- ==== Sys2Proof/Machine/Step.lean ====
section
/-! DEFINITION. One step of the machine, and the placement of the command the next step runs. -/

namespace Sys2Proof.Machine

/-- One step of the block and its host (10_state.md R57, 20_memory.md R73). -/
def step (s : State) : Host.Outcome State Fault Refusal := blockStep s

/-- `s` with the command word `w` written to `CMD`, so that the next step runs it (log 22). -/
def State.withFetchWord (s : State) (nbits w : Nat) : State := placeCommand s (tableWord nbits w)

end Sys2Proof.Machine
end

