-- ==== Sys2Proof/Safety.lean ====
section
/-! DEFINITION. What counts as a sound state and a clean command, in the terms the statements use. -/

namespace Sys2Proof

open Machine

/-- Every value of a channel's `XR`, `PREV` and `V` is a number of the format `FP` (10_state.md R38 to R40). -/
def Machine.Channel.stored (c : Channel) : Prop :=
  (∀ i : Fin 576, representable c.xr[i] = true) ∧
  (∀ (sb : Fin 32) (n : Fin 18), representable c.prev[sb][n] = true) ∧
  (∀ i : Fin 1024, representable c.v[i] = true)

/-- `ERRCODE` is 0 when `ERR = 0`, and a code of 60_exceptions.md R230 when `ERR = 1` (10_state.md R23). -/
def Machine.Status.errorCodeOk (st : Status) : Prop :=
  if st.err then 1 ≤ st.errcode.toNat ∧ st.errcode.toNat ≤ 4 else st.errcode = 0

/-- The invariant of the block: stored values are in the number format, the main-data RAM's cells are canonical, `MD_LEN`
is at most `MD_BYTES`, `ERRCODE` and `ERRINFO` are 0 while `ERR = 0`. -/
structure Machine.State.Inv (s : State) : Prop where
  stored0 : s.chan0.stored
  stored1 : s.chan1.stored
  memory : Memory.wf s.mem = true
  mdLen : s.mdLen.toNat ≤ mdBytes
  errorCode : s.status.errorCodeOk
  errorInfo : s.status.err = false → s.errinfo = 0

end Sys2Proof
end

