-- ==== Sys2Proof/Certificates/Slice0/Obligations.lean ====
section
/-! DEFINITION. The statements for the provers, each a rule of the spec or derived from rules, about the meanings, the step
and the host bus. -/

namespace Sys2Proof.Claims

open Sys2Proof.Machine

/-- `STATUS` after a command that succeeds: `BUSY` 0, `DONE` 1, the rest as before. -/
def doneStatus (s : State) : Status := { s.status with busy := false, done := true }

/-- `STATUS` after a command that fails: `BUSY` 0, `ERR` 1, the code, the rest as before. -/
def errorStatus (s : State) (code : BitVec 4) : Status := { s.status with busy := false, err := true, errcode := code }

/-- The state after a command that fails before it writes anything else. -/
def failed (s : State) (code : BitVec 4) (info : BitVec 26) : State :=
  { s with status := errorStatus s code, errinfo := info }

/-- Every byte of the host address space outside `changed` reads as before. -/
def SameBytes (s t : State) (changed : Nat → Prop) : Prop := ∀ a, ¬ changed a → t.hostByte a = s.hostByte a

/-- The bytes of `STATUS`. -/
def statusBytes (a : Nat) : Prop := 0x004 ≤ a ∧ a < 0x008

/-- The bytes of `ERRINFO`. -/
def errinfoBytes (a : Nat) : Prop := 0x00C ≤ a ∧ a < 0x010

/-- The bytes of the PCM buffer. -/
def pcmBytes (a : Nat) : Prop := 0x2000 ≤ a ∧ a < 0x2900

/-- The bytes of `ISI[ch]`. -/
def isiBytes (ch : Ch) (a : Nat) : Prop :=
  match ch with
  | .c0 => 0x3000 ≤ a ∧ a < 0x3480
  | .c1 => 0x3480 ≤ a ∧ a < 0x3900

/-- The bytes of `GCD3[ch]`. -/
def gcd3Bytes (ch : Ch) (a : Nat) : Prop :=
  match ch with
  | .c0 => 0x02C ≤ a ∧ a < 0x030
  | .c1 => 0x03C ≤ a ∧ a < 0x040

/-- The bytes HUFF on `ch` can change, besides `STATUS` and `ERRINFO`. -/
def huffBytes (ch : Ch) (a : Nat) : Prop := (0x010 ≤ a ∧ a < 0x014) ∨ gcd3Bytes ch a ∨ isiBytes ch a

/-- A command that succeeded and changed nothing but `XR`, of either channel, and `STATUS`. -/
def XrOnly (s t : State) : Prop :=
  t = { s with
        status := doneStatus s
        chan0 := { s.chan0 with xr := t.chan0.xr }
        chan1 := { s.chan1 with xr := t.chan1.xr } } ∧
  SameBytes s t statusBytes

/-- A command that succeeded and changed nothing but `XR` and `PREV`, of either channel, and `STATUS`. -/
def XrPrevOnly (s t : State) : Prop :=
  t = { s with
        status := doneStatus s
        chan0 := { s.chan0 with xr := t.chan0.xr, prev := t.chan0.prev }
        chan1 := { s.chan1 with xr := t.chan1.xr, prev := t.chan1.prev } } ∧
  SameBytes s t statusBytes

/-- A command that succeeded and changed nothing but `V`, of either channel, `PCM` and `STATUS`. -/
def VPcmOnly (s t : State) : Prop :=
  t = { s with
        status := doneStatus s
        pcm := t.pcm
        chan0 := { s.chan0 with v := t.chan0.v }
        chan1 := { s.chan1 with v := t.chan1.v } } ∧
  SameBytes s t (fun a => statusBytes a ∨ pcmBytes a)

/-- The state after HUFF on `ch` in its parts that every end of HUFF keeps: nothing changes but `ISI[ch]`, `COUNT1[ch]`,
`BITPOS`, `STATUS`, `ERRINFO` and the model's counter of draws. -/
def HuffFrame (s t : State) (ch : Ch) : Prop :=
  t = { s.setChan ch { s.chan ch with isi := (t.chan ch).isi, count1 := (t.chan ch).count1 } with
        bitpos := t.bitpos, status := t.status, errinfo := t.errinfo, draws := t.draws } ∧
  SameBytes s t (fun a => statusBytes a ∨ errinfoBytes a ∨ huffBytes ch a)

/-- The operand of a per-channel command, HUFF's `ALL` being 0. -/
def channelOperand : Instr → Option (Bool × Ch)
  | .nop => none
  | .clearhist all ch => some (all, ch)
  | .huff ch => some (false, ch)
  | .requant all ch => some (all, ch)
  | .reorder all ch => some (all, ch)
  | .stereo => none
  | .antialias all ch => some (all, ch)
  | .imdct all ch => some (all, ch)
  | .freqinv all ch => some (all, ch)
  | .synth all ch => some (all, ch)
  | .silence => none
  | .backend => none

/-- A word 30_encoding.md R82 rejects in state `s`: no command, or a per-channel command on channel 1 of a mono stream. -/
def Illegal (s : State) (w : Word) : Prop :=
  match decode w with
  | .error _ => True
  | .ok i => s.chMode = 3 ∧ ∃ all ch, channelOperand i = some (all, ch) ∧ all = false ∧ ch = .c1

/-- Nothing from the host comes before the running command ends. -/
def EngineNext (s : State) : Prop := s.status.busy = true ∧ ∀ e rest, s.inbox = e :: rest → e.lands true = false

/-- A state with its internal arrays `XR`, `PREV`, `V` blanked. -/
def hide (s : State) : State :=
  { s with
    chan0 := { s.chan0 with xr := Channel.reset.xr, prev := Channel.reset.prev, v := Channel.reset.v }
    chan1 := { s.chan1 with xr := Channel.reset.xr, prev := Channel.reset.prev, v := Channel.reset.v } }

/-- The state with `STATUS.DONE` cleared. -/
def clearDone (s : State) : State := { s with status := { s.status with done := false } }

/-- The command fails: run with `DONE = 0` before it, it ends with `DONE = 0`. -/
def Fails (i : Instr) (s : State) : Prop := ∃ t, exec i (clearDone s) = .next t ∧ t.status.done = false

/-- 40_huffman.md R106, the escape: a value 15 of a table with linbits has that many more bits read and added. -/
def EscapeRead (s : State) (lb v0 : Nat) (r : Reader) (v : Int) (r' : Reader) : Prop :=
  if 0 < lb ∧ v0 = 15 then v = 15 + (readBits s lb r).1 ∧ r' = (readBits s lb r).2 else v = v0 ∧ r' = r

/-- 40_huffman.md R106, R109, the sign: a nonzero value reads one bit, 1 for negative; a zero reads none. -/
def SignRead (s : State) (v : Int) (r : Reader) (x : Int) (r' : Reader) : Prop :=
  if v = 0 then x = 0 ∧ r' = r
  else x = (if (readBits s 1 r).1 = 1 then -v else v) ∧ r' = (readBits s 1 r).2

/-- 40_huffman.md R102, R103: the table of a pair at line `p`. -/
def selectedTable (s : State) (c : Channel) (p : Nat) : Nat :=
  if c.wsFlag = true ∧ c.blockType = 2 then
    if p < 36 then c.tsel0 else if p < 576 then c.tsel1 else c.tsel2
  else if p < entry s.longTable (c.region0 + 1) then c.tsel0
  else if p < (if c.region0 + c.region1 + 2 ≤ 22 then entry s.longTable (c.region0 + c.region1 + 2) else 576) then c.tsel1
  else c.tsel2

/-- 40_huffman.md R100, R108: one turn of the big-values loop writes a pair from the selected table. -/
def PairStep (s : State) (c : Channel) (h g : HuffRun) : Prop :=
  ∃ x y, decodePair s (selectedTable s c h.pos) h.rd = (some (x, y), g.rd) ∧ g.pos = h.pos + 2 ∧
    ∀ i : Fin 576, g.isi[i] =
      if i.val = h.pos then BitVec.ofInt 16 x else if i.val = h.pos + 1 then BitVec.ofInt 16 y else h.isi[i]

/-- 40_huffman.md R110 with `COUNT1_STOP = 572`: the quadruple loop takes another turn; `BITPOS <= end` is
`BITPOS < PART2_START + PART23_LEN`. -/
def QuadGoes (c : Channel) (h : HuffRun) : Prop :=
  h.pos < 572 ∧ h.rd.bitpos.toNat < c.part2Start.toNat + c.part23Len

/-- 40_huffman.md R100, R110: one turn of the quadruple loop writes a quadruple. -/
def QuadStep (s : State) (c : Channel) (h g : HuffRun) : Prop :=
  ∃ v w x y, decodeQuad s c.c1tsel h.rd = (some (v, w, x, y), g.rd) ∧ g.pos = h.pos + 4 ∧
    ∀ i : Fin 576, g.isi[i] =
      if i.val = h.pos then BitVec.ofInt 16 v else if i.val = h.pos + 1 then BitVec.ofInt 16 w
      else if i.val = h.pos + 2 then BitVec.ofInt 16 x else if i.val = h.pos + 3 then BitVec.ofInt 16 y else h.isi[i]

/-- 40_huffman.md R100: where the loops begin, with nothing latched by this HUFF. -/
def huffStart (s : State) (ch : Ch) : HuffRun :=
  { isi := (s.chan ch).isi, pos := 0, rd := { bitpos := s.bitpos, oob := false } }

/-- 40_huffman.md R100, R108, R110: the two loops run to their ends, at `h`: `BIG_VALUES` pairs, then quadruples until the
loop test fails. -/
def HuffLoops (s : State) (ch : Ch) (h : HuffRun) : Prop :=
  ∃ (P Q : Nat → HuffRun) (n : Nat), P 0 = huffStart s ch ∧
    (∀ k, k < (s.chan ch).bigValues → PairStep s (s.chan ch) (P k) (P (k + 1))) ∧
    Q 0 = P (s.chan ch).bigValues ∧
    (∀ k, k < n → QuadGoes (s.chan ch) (Q k) ∧ QuadStep s (s.chan ch) (Q k) (Q (k + 1))) ∧
    ¬ QuadGoes (s.chan ch) (Q n) ∧ h = Q n

/-- 40_huffman.md R104, R105: a pair, or a quadruple, of the loops meets an invalid code; `h` holds the lines and `is_pos`
before it and the reader after the last bit read. -/
def HuffBreaks (s : State) (ch : Ch) (h : HuffRun) : Prop :=
  ∃ (P : Nat → HuffRun) (m : Nat), P 0 = huffStart s ch ∧
    (∀ k, k < m → PairStep s (s.chan ch) (P k) (P (k + 1))) ∧
    ((m < (s.chan ch).bigValues ∧
        ∃ r, decodePair s (selectedTable s (s.chan ch) (P m).pos) (P m).rd = (none, r) ∧ h = { P m with rd := r }) ∨
      (m = (s.chan ch).bigValues ∧ ∃ (Q : Nat → HuffRun) (n : Nat), Q 0 = P m ∧
        (∀ k, k < n → QuadGoes (s.chan ch) (Q k) ∧ QuadStep s (s.chan ch) (Q k) (Q (k + 1))) ∧
        QuadGoes (s.chan ch) (Q n) ∧
        ∃ r, decodeQuad s (s.chan ch).c1tsel (Q n).rd = (none, r) ∧ h = { Q n with rd := r }))

/-- The sample of a channel in a PCM pair. -/
def slot (ch : Ch) (p : Half × Half) : Half :=
  match ch with
  | .c0 => p.1
  | .c1 => p.2

/-- No channel of the list has a mixed block that the table row cannot split (10_state.md R44). -/
def SplitsOk (s : State) (l : List Ch) : Prop := ∀ c ∈ l, (s.chan c).mixed = true → s.splitOk = true

/-- No channel of the list has a mixed block without a table row that can split it (10_state.md R28, R44). -/
def BlocksOk (s : State) (l : List Ch) : Prop :=
  ∀ c ∈ l, (s.chan c).mixed = true → s.tablesOk = true ∧ s.splitOk = true

/-- The reader after `n` single-bit reads. -/
def readerAfter (s : State) (r : Reader) : Nat → Reader
  | 0 => r
  | n + 1 => (readBits s 1 (readerAfter s r n)).2

/-- The bits of `n` single-bit reads, in order. -/
def bitsRead (s : State) (r : Reader) (n : Nat) : List Bool :=
  (List.range n).map fun k => decide ((readBits s 1 (readerAfter s r k)).1 = 1)

/-- The offsets 20_memory.md R70 calls reserved: "Every other offset is reserved". -/
def reservedOffset (a : Nat) : Prop :=
  (0x01C ≤ a ∧ a < 0x020) ∨ (0x050 ≤ a ∧ a < 0x100) ∨ (0x180 ≤ a ∧ a < 0x1000) ∨ (0x2900 ≤ a ∧ a < 0x3000) ∨ 0x3900 ≤ a

/-- The registers without an effect of their own on a write (20_memory.md R68, R70). -/
def plainRegisters : List Offset :=
  [0x010, 0x014, 0x018, 0x020, 0x024, 0x028, 0x02C, 0x030, 0x034, 0x038, 0x03C, 0x040, 0x044, 0x048, 0x04C]

/-- The long windows of 42_hybrid.md R168 as real numbers. -/
noncomputable def winReal (wt i : Nat) : ℝ :=
  let sine36 := Real.sin (Real.pi / 36 * (i + 1 / 2))
  if wt = 1 then
    if i < 18 then sine36
    else if i < 24 then 1
    else if i < 30 then Real.sin (Real.pi / 12 * (i - 18 + 1 / 2))
    else 0
  else if wt = 3 then
    if i < 6 then 0
    else if i < 12 then Real.sin (Real.pi / 12 * (i - 6 + 1 / 2))
    else if i < 18 then 1
    else sine36
  else sine36

end Sys2Proof.Claims

open Sys2Proof Sys2Proof.Machine Sys2Proof.Claims

/-! ## Encoding -/

/-- 30_encoding.md R84: the words of every legal form. -/
def Obligations.ListedWordsDecode : Prop :=
  decode 0x00000000 = .ok .nop ∧
  decode 0x00000001 = .ok (.clearhist false .c0) ∧ decode 0x00000101 = .ok (.clearhist false .c1) ∧
  decode 0x00000201 = .ok (.clearhist true .c0) ∧
  decode 0x00000010 = .ok (.huff .c0) ∧ decode 0x00000110 = .ok (.huff .c1) ∧
  decode 0x00000020 = .ok (.requant false .c0) ∧ decode 0x00000120 = .ok (.requant false .c1) ∧
  decode 0x00000220 = .ok (.requant true .c0) ∧
  decode 0x00000021 = .ok (.reorder false .c0) ∧ decode 0x00000121 = .ok (.reorder false .c1) ∧
  decode 0x00000221 = .ok (.reorder true .c0) ∧
  decode 0x00000022 = .ok .stereo ∧
  decode 0x00000030 = .ok (.antialias false .c0) ∧ decode 0x00000130 = .ok (.antialias false .c1) ∧
  decode 0x00000230 = .ok (.antialias true .c0) ∧
  decode 0x00000031 = .ok (.imdct false .c0) ∧ decode 0x00000131 = .ok (.imdct false .c1) ∧
  decode 0x00000231 = .ok (.imdct true .c0) ∧
  decode 0x00000032 = .ok (.freqinv false .c0) ∧ decode 0x00000132 = .ok (.freqinv false .c1) ∧
  decode 0x00000232 = .ok (.freqinv true .c0) ∧
  decode 0x00000040 = .ok (.synth false .c0) ∧ decode 0x00000140 = .ok (.synth false .c1) ∧
  decode 0x00000240 = .ok (.synth true .c0) ∧
  decode 0x00000041 = .ok .silence ∧
  decode 0x00000050 = .ok .backend

/-- 30_encoding.md R80, R82 (its state-independent clauses), R83: a word decodes to a command exactly when the command is
well-formed and the word is the one the format gives it, so no bit of a word is ignored and no other word is a command. -/
def Obligations.DecodesExactlyEncodedWords : Prop :=
  ∀ (w : Word) (i : Instr), decode w = .ok i ↔ (i.wellFormed = true ∧ w = encode i)

/-- 30_encoding.md R81, R82: the channel set of a command, and which operands are legal in a state. -/
def Obligations.ChannelSetAndLegality : Prop :=
  ∀ (s : State) (all : Bool) (ch : Ch),
    (all = false → chans s all ch = [ch]) ∧
    (all = true → s.chMode = 3 → chans s all ch = [.c0]) ∧
    (all = true → s.chMode ≠ 3 → chans s all ch = [.c0, .c1]) ∧
    (channelsLegal s all ch = true ↔ ((all = true → ch = .c0) ∧ (s.chMode = 3 → ch = .c0)))

/-! ## The step -/

/-- 20_memory.md R73, 10_state.md R57: when `BUSY = 1` and nothing from the host comes first, a step is the meaning of the
command `CMD` holds. -/
def Obligations.StepRunsDecodedCommand : Prop :=
  ∀ (s : State) (i : Instr), EngineNext s → decode s.cmd = .ok i → step s = exec i s

/-- 30_encoding.md R85, 60_exceptions.md R234: a word that R82 rejects ends with `ERR = 1`, `ERRCODE = IllegalCommand`,
`ERRINFO = 0` and changes nothing else, whatever the word. -/
def Obligations.IllegalWordRaisesIllegalCommand : Prop :=
  ∀ s : State, EngineNext s → Illegal s s.cmd → step s = .next (failed s 4 0)

/-- 20_memory.md R73 and log 7 (the model's schedule of host events): an idle block makes the host's next access, or stays
as it is when there is none; a legal write of `CMD` sets `BUSY` and keeps the word, and clears neither `DONE` nor `ERR`
(10_state.md R24, R57). -/
def Obligations.IdleStepMakesHostAccess : Prop :=
  ∀ s : State, s.status.busy = false →
    (s.inbox = [] → step s = .next s) ∧
    (∀ b a rest, s.inbox = .access b a :: rest → a.legal = true → step s = .next ({ s with inbox := rest }.access a)) ∧
    (∀ b w rest, s.inbox = .access b (.write .word 0x008 w) :: rest →
      step s = .next { s with inbox := rest, cmd := w, status := { s.status with busy := true } })

/-- 60_exceptions.md R235: a `CMD` write while `BUSY = 1` is dropped and sets `OVERRUN`; nothing else changes. -/
def Obligations.CommandOverrun : Prop :=
  ∀ (s : State) (w : Word) (rest : List HostEvent), s.status.busy = true →
    s.inbox = .access true (.write .word 0x008 w) :: rest →
    step s = .next { s with inbox := rest, status := { s.status with overrun := true } }

/-- 70_reset_and_hazards.md R255: while `BUSY = 1` the host may read `STATUS`, `CTRL`, `ERRINFO` and write `CTRL` and
`STATUS`; the overrun write of `CMD` is R235's; every other access that is legal by its width is refused. -/
def Obligations.BusyHazardsAreRefused : Prop :=
  ∀ (s : State) (a : Access), s.status.busy = true → a.legal = true →
    (a ∈ [Access.read .word 0x000, .read .word 0x004, .read .word 0x00C] → hostAccess a s = .next (s.access a)) ∧
    (∀ w, a = .write .word 0x000 w ∨ a = .write .word 0x004 w → hostAccess a s = .next (s.access a)) ∧
    (a ∉ [Access.read .word 0x000, .read .word 0x004, .read .word 0x00C] →
      (∀ w, a ≠ .write .word 0x000 w ∧ a ≠ .write .word 0x004 w ∧ a ≠ .write .word 0x008 w) →
      hostAccess a s = .refused .busyHazard)

/-- 20_memory.md R67: which accesses are refused for their width or alignment; the last clause (reserved offsets outside the
register space) is the model's choice, log 18. -/
def Obligations.WrongWidthOrAlignmentIsRefused : Prop :=
  ∀ (s : State) (w : Width) (off : Offset) (a : Access), (a = .read w off ∨ ∃ v, a = .write w off v) →
    (off.toNat < 0x100 → (hostAccess a s = .refused .badAccess ↔ ¬(w = .word ∧ off.toNat % 4 = 0))) ∧
    ((0x100 ≤ off.toNat ∧ off.toNat < 0x180) ∨ (0x1000 ≤ off.toNat ∧ off.toNat < 0x2000) →
      (hostAccess a s = .refused .badAccess ↔ off.toNat % w.bytes ≠ 0)) ∧
    ((0x2000 ≤ off.toNat ∧ off.toNat < 0x2900) ∨ (0x3000 ≤ off.toNat ∧ off.toNat < 0x3900) →
      (hostAccess a s = .refused .badAccess ↔ (w = .byte ∨ off.toNat % w.bytes ≠ 0))) ∧
    ((0x180 ≤ off.toNat ∧ off.toNat < 0x1000) ∨ (0x2900 ≤ off.toNat ∧ off.toNat < 0x3000) ∨ 0x3900 ≤ off.toNat →
      (hostAccess a s = .refused .badAccess ↔ off.toNat % w.bytes ≠ 0))

/-- 10_state.md R23, 60_exceptions.md R239: writing 1 to `DONE`, `OOB`, `OVERRUN` clears each, writing 1 to `ERR` clears it
with `ERRCODE` and `ERRINFO`, writing 0 changes nothing, and nothing else changes. -/
def Obligations.StatusWriteOneToClear : Prop :=
  ∀ (s : State) (w : Word), ∃ t, s.access (.write .word 0x004 w) = t ∧
    t = { s with status := t.status, errinfo := t.errinfo } ∧
    t.status.busy = s.status.busy ∧
    (t.status.done = true ↔ (s.status.done = true ∧ w.getLsbD 1 = false)) ∧
    (t.status.err = true ↔ (s.status.err = true ∧ w.getLsbD 2 = false)) ∧
    (t.status.oob = true ↔ (s.status.oob = true ∧ w.getLsbD 3 = false)) ∧
    (t.status.overrun = true ↔ (s.status.overrun = true ∧ w.getLsbD 8 = false)) ∧
    (w.getLsbD 2 = true → t.status.errcode = 0 ∧ t.errinfo = 0) ∧
    (w.getLsbD 2 = false → t.status.errcode = s.status.errcode ∧ t.errinfo = s.errinfo)

/-- 10_state.md R23: where the fields of `STATUS` stand in the word the host reads, the other bits reading 0. -/
def Obligations.StatusWordLayout : Prop :=
  ∀ s : State, ∃ w, s.busRead 0x004 4 = w ∧
    w.getLsbD 0 = s.status.busy ∧ w.getLsbD 1 = s.status.done ∧ w.getLsbD 2 = s.status.err ∧
    w.getLsbD 3 = s.status.oob ∧ w.extractLsb' 4 4 = s.status.errcode ∧ w.getLsbD 8 = s.status.overrun ∧
    (∀ k, 9 ≤ k → w.getLsbD k = false)

/-- 60_exceptions.md R236: after any command ends, `irq` is `CTRL.IRQ_EN`; acknowledging `DONE` and `ERR`, or clearing
`IRQ_EN`, deasserts it. -/
def Obligations.InterruptAfterCommand : Prop :=
  (∀ (i : Instr) (s t : State), exec i s = .next t → t.irq = s.irqEn) ∧
  (∀ s : State, (s.access (.write .word 0x004 0x6)).irq = false) ∧
  (∀ s : State, (s.access (.write .word 0x000 0x0)).irq = false)

/-! ## Reset and invariant -/

/-- 70_reset_and_hazards.md R250: the values after reset, and that a hardware reset, busy or not, leads to them, with
main data that can be any value: new free bytes (log 9, log 17). `busData`, `draws`, `inbox` are the model's own fields. -/
def Obligations.ResetValues : Prop :=
  (∀ ch, (State.reset.chan ch).gcd0 = 0 ∧ (State.reset.chan ch).gcd1 = 0 ∧ (State.reset.chan ch).gcd2 = 0 ∧
    (State.reset.chan ch).part2Start = 0 ∧ (State.reset.chan ch).count1 = 0 ∧
    (∀ b : Fin 58, (State.reset.chan ch).sf[b] = 0) ∧ (∀ i : Fin 576, (State.reset.chan ch).isi[i] = 0) ∧
    (∀ i : Fin 576, (State.reset.chan ch).xr[i] = 0) ∧
    (∀ (sb : Fin 32) (n : Fin 18), (State.reset.chan ch).prev[sb][n] = 0) ∧
    (∀ i : Fin 1024, (State.reset.chan ch).v[i] = 0)) ∧
  (∀ n : Fin 576, State.reset.pcm[n] = (0, 0)) ∧
  State.reset.irqEn = false ∧ State.reset.status.word = 0 ∧ State.reset.cmd = 0 ∧ State.reset.errinfo = 0 ∧
  State.reset.bitpos = 0 ∧ State.reset.mdLen = 0 ∧ State.reset.cfg = 0 ∧ State.reset.isillL = 0 ∧
  (∀ w : Fin 3, State.reset.isillS[w] = 0) ∧ State.reset.irq = false ∧
  (∀ k, State.reset.mdByte k = Config.mdReset 0 (0x1000 + k)) ∧
  (∀ (s : State) (rest : List HostEvent), s.inbox = .hardReset :: rest →
    ∃ t, step s = .next t ∧
      t = { State.reset with mdDraw := t.mdDraw, draws := t.draws, inbox := rest, busData := s.busData } ∧
      (∀ k, t.mdByte k = Config.mdReset (s.draws + 1) (0x1000 + k)) ∧ s.draws < t.draws)

/-- 70_reset_and_hazards.md R251: writing 1 to `CTRL.SOFT_RESET`, busy or not, puts everything at its reset value but `MD`,
and the running command is abandoned. That `IRQ_EN` is 0 where the write also sets bit 0 is DEDUCED (log 20), and `mdDraw` is
the model's way to keep the bytes nothing has written (log 9). (`busData`, `draws`, `inbox` are the model's own fields,
log 7, 8, 10.) -/
def Obligations.SoftResetKeepsOnlyMainData : Prop :=
  ∀ (s : State) (w : Word) (rest : List HostEvent), w.getLsbD 1 = true →
    s.inbox = .access true (.write .word 0x000 w) :: rest →
    ∃ t, step s = .next t ∧
      t = { State.reset with
            mem := s.mem, mdDraw := s.mdDraw, draws := s.draws, inbox := rest, busData := s.busData } ∧
      (∀ k, t.mdByte k = s.mdByte k)

/-- The model's invariant (Safety.lean) holds after reset. -/
def Obligations.ResetMeetsInvariant : Prop := State.reset.Inv

/-- The model's invariant (Safety.lean) is kept by every step from every state that meets it: what `XR`, `PREV` and `V` hold
are numbers of `FP` (10_state.md R38 to R40, 00_scope.md R8), the main-data RAM's cells are canonical and in its window,
`MD_LEN` is at most 4096 (10_state.md R27), `ERRCODE` and `ERRINFO` are 0 while `ERR = 0` (10_state.md R23). -/
def Obligations.StepKeepsInvariant : Prop := ∀ s t : State, s.Inv → step s = .next t → t.Inv

/-! ## Rules about every command -/

/-- 10_state.md R57, 60_exceptions.md R230, R239: every command ends, with `BUSY = 0` and exactly one of `DONE` and `ERR`
set by it: on success `ERR`, `ERRCODE` and `ERRINFO` are as before, on failure `DONE` is as before and the code is 1 to 4. -/
def Obligations.CommandEndsWithDoneOrError : Prop :=
  ∀ (i : Instr) (s : State), ∃ t, exec i s = .next t ∧ t.status.busy = false ∧
    ((t.status.done = true ∧ t.status.err = s.status.err ∧ t.status.errcode = s.status.errcode ∧ t.errinfo = s.errinfo) ∨
     (t.status.err = true ∧ t.status.done = s.status.done ∧
       t.status.errcode ∈ ([1, 2, 3, 4] : List (BitVec 4))))

/-- 10_state.md R41: no command writes what the host alone writes: `CTRL`, `CFG`, `GCD*` but `COUNT1`, `SF`, `ISILL_*`, `MD`,
`MD_LEN`; nor `CMD` and `STATUS.OVERRUN`. -/
def Obligations.CommandsKeepHostOwnedState : Prop :=
  ∀ (i : Instr) (s t : State), exec i s = .next t →
    t.irqEn = s.irqEn ∧ t.cfg = s.cfg ∧ t.isillL = s.isillL ∧ t.isillS = s.isillS ∧ t.mem = s.mem ∧ t.mdLen = s.mdLen ∧
    t.cmd = s.cmd ∧ t.status.overrun = s.status.overrun ∧
    (∀ ch, (t.chan ch).gcd0 = (s.chan ch).gcd0 ∧ (t.chan ch).gcd1 = (s.chan ch).gcd1 ∧
      (t.chan ch).gcd2 = (s.chan ch).gcd2 ∧ (t.chan ch).part2Start = (s.chan ch).part2Start ∧
      (t.chan ch).sf = (s.chan ch).sf) ∧
    (∀ k, t.mdByte k = s.mdByte k) ∧
    (∀ a, (0x100 ≤ a ∧ a < 0x180) ∨ (0x1000 ≤ a ∧ a < 0x2000) → t.hostByte a = s.hostByte a)

/-- 10_state.md R36 to R41 with the "State written" of every command's rule: only HUFF writes `ISI`, `COUNT1`, `BITPOS` and
`OOB`; only IMDCT, CLEARHIST and BACKEND write `PREV`; only SYNTH, CLEARHIST and BACKEND write `V`; only SYNTH, SILENCE and
BACKEND write `PCM`; NOP, CLEARHIST, HUFF, SYNTH and SILENCE do not write `XR`. -/
def Obligations.CommandsWriteOnlyTheirArrays : Prop :=
  ∀ (i : Instr) (s t : State), exec i s = .next t →
    ((∀ ch, i ≠ .huff ch) → t.bitpos = s.bitpos ∧ t.status.oob = s.status.oob ∧
      ∀ ch, (t.chan ch).isi = (s.chan ch).isi ∧ (t.chan ch).count1 = (s.chan ch).count1) ∧
    ((∀ all ch, i ≠ .imdct all ch ∧ i ≠ .clearhist all ch) → i ≠ .backend → ∀ ch, (t.chan ch).prev = (s.chan ch).prev) ∧
    ((∀ all ch, i ≠ .synth all ch ∧ i ≠ .clearhist all ch) → i ≠ .backend → ∀ ch, (t.chan ch).v = (s.chan ch).v) ∧
    ((∀ all ch, i ≠ .synth all ch) → i ≠ .silence → i ≠ .backend →
      t.pcm = s.pcm ∧ ∀ a, pcmBytes a → t.hostByte a = s.hostByte a) ∧
    ((i = .nop ∨ i = .silence ∨ (∃ ch, i = .huff ch) ∨ ∃ all ch, i = .clearhist all ch ∨ i = .synth all ch) →
      ∀ ch, (t.chan ch).xr = (s.chan ch).xr)

/-- 60_exceptions.md R232: "No error changes `PREV`, `V` or `PCM`", whatever `DONE` was before the command: that it fails is
read from the same command run with `DONE = 0`. -/
def Obligations.ErrorsKeepHistoryAndPcm : Prop :=
  ∀ (i : Instr) (s t : State), Fails i s → exec i s = .next t →
    t.pcm = s.pcm ∧ ∀ ch, (t.chan ch).prev = (s.chan ch).prev ∧ (t.chan ch).v = (s.chan ch).v

/-- 60_exceptions.md R232: an IllegalCommand or OutOfRange error is raised before the failing command writes any state;
BACKEND, whose earlier steps keep their writes, has a statement of its own. That the command fails is read from the same
command run with `DONE = 0`. (`draws` is the model's own, log 10.) -/
def Obligations.EarlyErrorsWriteNothing : Prop :=
  ∀ (i : Instr) (s t : State), i ≠ .backend → Fails i s → exec i s = .next t →
    (t.status.errcode = 2 ∨ t.status.errcode = 4) →
    t = { failed s t.status.errcode t.errinfo with draws := t.draws } ∧
    SameBytes s t (fun a => statusBytes a ∨ errinfoBytes a)

/-- 60_exceptions.md R241, 10_state.md R38 to R40: no host access tells anything about `XR`, `PREV` and `V`: from states that
differ in them only, an access has the same outcome, the data read included, up to them. -/
def Obligations.HostCannotSeeInternalArrays : Prop :=
  ∀ (a : Access) (s s' : State), hide s = hide s' →
    (∀ r, hostAccess a s = .refused r → hostAccess a s' = .refused r) ∧
    (∀ t, hostAccess a s = .next t → ∃ t', hostAccess a s' = .next t' ∧ hide t = hide t')

/-- 10_state.md R38 to R41: what a command leaves for the host to see depends on `XR`, `PREV` and `V` through `PCM` only:
errors, flags, the spectrum and the cursor do not. -/
def Obligations.InternalArraysShowOnlyThroughPcm : Prop :=
  ∀ (i : Instr) (s s' t t' : State), hide s = hide s' → exec i s = .next t → exec i s' = .next t' →
    { hide t with pcm := t'.pcm } = hide t'

/-! ## The host's registers and memories -/

/-- 10_state.md R22, R24 to R34: a register reads back the bits it keeps, reserved bits 0; `CTRL` reads `IRQ_EN`, and 0 after
a soft reset (log 20); `CMD` reads the last word written while idle; `ERRINFO` ignores writes and has R25's layout; `COUNT1`
ignores writes; `MD_LEN` reads back at most 4096, its reserved bits dropped first (log 26). That the bits of `ISILL_*` no rule
names are reserved is log 23. Byte `b` of `SF[ch]` is at `0x100 + 0x40*ch + b`; a legal write of the SF RAM stores its
bytes, the low one first, but the reserved bytes 58 to 63, which read 0, and changes nothing else. A write of a register without an effect of its own changes no byte
of the address space but the register's (20_memory.md R68, R70), nor anything the host cannot see; a `CTRL` write without
`SOFT_RESET` changes `IRQ_EN` only; reserved offsets read 0 and ignore writes. -/
def Obligations.RegisterWritesReadBack : Prop :=
  (∀ (s : State) (w : Word),
    (s.access (.write .word 0x000 w)).busRead 0x000 4 = (if w.getLsbD 1 then 0 else w &&& 0x00000001) ∧
    (s.status.busy = false → (s.access (.write .word 0x008 w)).busRead 0x008 4 = w) ∧
    (s.status.busy = true → (s.access (.write .word 0x008 w)).busRead 0x008 4 = s.busRead 0x008 4) ∧
    s.access (.write .word 0x00C w) = s ∧
    (w.getLsbD 1 = false → s.access (.write .word 0x000 w) = { s with irqEn := w.getLsbD 0 }) ∧
    (s.access (.write .word 0x010 w)).busRead 0x010 4 = w &&& 0x00007FFF ∧
    (s.access (.write .word 0x014 w)).busRead 0x014 4 =
      (if 4096 < (w &&& 0x00001FFF).toNat then 4096 else w &&& 0x00001FFF) ∧
    (s.access (.write .word 0x018 w)).busRead 0x018 4 = w &&& 0x000000FF ∧
    (s.access (.write .word 0x020 w)).busRead 0x020 4 = w &&& 0x7FFFFFFF ∧
    (s.access (.write .word 0x024 w)).busRead 0x024 4 = w &&& 0x0FFFFFFF ∧
    (s.access (.write .word 0x028 w)).busRead 0x028 4 = w &&& 0x000001FF ∧
    (s.access (.write .word 0x02C w)).busRead 0x02C 4 = (w &&& 0x00007FFF) ||| (s.busRead 0x02C 4 &&& 0x03FF0000) ∧
    (s.access (.write .word 0x030 w)).busRead 0x030 4 = w &&& 0x7FFFFFFF ∧
    (s.access (.write .word 0x034 w)).busRead 0x034 4 = w &&& 0x0FFFFFFF ∧
    (s.access (.write .word 0x038 w)).busRead 0x038 4 = w &&& 0x000001FF ∧
    (s.access (.write .word 0x03C w)).busRead 0x03C 4 = (w &&& 0x00007FFF) ||| (s.busRead 0x03C 4 &&& 0x03FF0000) ∧
    (s.access (.write .word 0x040 w)).busRead 0x040 4 = w &&& 0x001FFFFF ∧
    (s.access (.write .word 0x044 w)).busRead 0x044 4 = w &&& 0x00000FFF ∧
    (s.access (.write .word 0x048 w)).busRead 0x048 4 = w &&& 0x00000FFF ∧
    (s.access (.write .word 0x04C w)).busRead 0x04C 4 = w &&& 0x00000FFF) ∧
  (∀ (s : State) (pos : BitVec 10) (ch : Bool) (bitpos : BitVec 15), s.errinfo = errInfo pos ch bitpos →
    ∃ w, s.busRead 0x00C 4 = w ∧ w.extractLsb' 0 15 = bitpos ∧ w.getLsbD 15 = ch ∧ w.extractLsb' 16 10 = pos ∧
      w.extractLsb' 26 6 = 0) ∧
  (∀ (s : State) (ch : Ch),
    (∀ b : Fin 58, s.hostByte (0x100 + 0x40 * (if ch = .c1 then 1 else 0) + b.val) = (s.chan ch).sf[b]) ∧
    (∀ b, 58 ≤ b → b < 64 → s.hostByte (0x100 + 0x40 * (if ch = .c1 then 1 else 0) + b) = 0)) ∧
  (∀ (s : State) (w : Width) (off : Offset) (val : Word), accessOk w off = true → 0x100 ≤ off.toNat → off.toNat < 0x180 →
    ∃ t, s.access (.write w off val) = t ∧
      t = { s with chan0 := { s.chan0 with sf := t.chan0.sf }, chan1 := { s.chan1 with sf := t.chan1.sf } } ∧
      (∀ k, k < w.bytes → (off.toNat + k) % 0x40 < 58 → t.hostByte (off.toNat + k) = val.extractLsb' (8 * k) 8) ∧
      SameBytes s t (fun a => off.toNat ≤ a ∧ a < off.toNat + w.bytes)) ∧
  (∀ (s : State) (off : Offset) (w : Word), off ∈ plainRegisters →
    ∃ t, s.access (.write .word off w) = t ∧
      t = { s with
            bitpos := t.bitpos, mdLen := t.mdLen, cfg := t.cfg, isillL := t.isillL, isillS := t.isillS
            chan0 := { s.chan0 with
                       gcd0 := t.chan0.gcd0, gcd1 := t.chan0.gcd1, gcd2 := t.chan0.gcd2, part2Start := t.chan0.part2Start }
            chan1 := { s.chan1 with
                       gcd0 := t.chan1.gcd0, gcd1 := t.chan1.gcd1, gcd2 := t.chan1.gcd2
                       part2Start := t.chan1.part2Start } } ∧
      SameBytes s t (fun a => off.toNat ≤ a ∧ a < off.toNat + 4)) ∧
  (∀ (s : State) (w : Width) (off : Offset) (val : Word), accessOk w off = true → reservedOffset off.toNat →
    s.access (.write w off val) = s ∧ s.busRead off.toNat w.bytes = 0)

/-- 20_memory.md R66, R68: a legal read anywhere gives the host the bytes it covers, the low one first, zeros above them in
the model's `busData` (log 8), and has no other effect; a legal write of the main-data RAM stores the value's bytes, the low one first, and changes no
other byte of the address space; nothing but `MD` changes. -/
def Obligations.MainDataWritesReadBack : Prop :=
  (∀ (s : State) (w : Width) (off : Offset), accessOk w off = true →
    ∃ t, s.access (.read w off) = t ∧ t = { s with busData := t.busData } ∧
      (∀ k, k < w.bytes → t.busData.extractLsb' (8 * k) 8 = s.hostByte (off.toNat + k)) ∧
      (∀ k, 8 * w.bytes ≤ k → t.busData.getLsbD k = false)) ∧
  ∀ (s : State) (w : Width) (off : Offset) (val : Word), accessOk w off = true → 0x1000 ≤ off.toNat → off.toNat < 0x2000 →
    ∃ t, s.access (.write w off val) = t ∧ t = { s with mem := t.mem } ∧
      (∀ k, k < w.bytes → t.hostByte (off.toNat + k) = val.extractLsb' (8 * k) 8) ∧
      SameBytes s t (fun a => off.toNat ≤ a ∧ a < off.toNat + w.bytes)

/-- 10_state.md R36: a halfword written at `0x3000 + 0x480*ch + 2*i` is line `i` of `ISI[ch]`, and no other byte of the
address space changes; a halfword read there is the line. A word at `0x3000 + 0x480*ch + 4*j` is lines `2j` (low half) and
`2j + 1` (20_memory.md R66, R67). -/
def Obligations.SpectrumWindowHalfwords : Prop :=
  (∀ (s : State) (ch : Ch) (j : Fin 288) (val : Word) (off : Offset),
    off.toNat = 0x3000 + 0x480 * (if ch = .c1 then 1 else 0) + 4 * j.val →
    s.busRead off.toNat 4 = look (s.chan ch).isi (2 * j.val + 1) 0 ++ look (s.chan ch).isi (2 * j.val) 0 ∧
    ∃ t, s.access (.write .word off val) = t ∧
      t = s.setChan ch { s.chan ch with isi := (t.chan ch).isi } ∧
      (∀ i : Fin 576, (t.chan ch).isi[i] =
        if i.val = 2 * j.val then val.extractLsb' 0 16
        else if i.val = 2 * j.val + 1 then val.extractLsb' 16 16 else (s.chan ch).isi[i]) ∧
      SameBytes s t (fun a => off.toNat ≤ a ∧ a < off.toNat + 4)) ∧
  ∀ (s : State) (ch : Ch) (i : Fin 576) (val : Word) (off : Offset),
    off.toNat = 0x3000 + 0x480 * (if ch = .c1 then 1 else 0) + 2 * i.val →
    s.busRead off.toNat 2 = (s.chan ch).isi[i].setWidth 32 ∧
    ∃ t, s.access (.write .half off val) = t ∧
      t = s.setChan ch { s.chan ch with isi := (t.chan ch).isi } ∧
      (t.chan ch).isi[i] = val.extractLsb' 0 16 ∧
      (∀ j : Fin 576, j ≠ i → (t.chan ch).isi[j] = (s.chan ch).isi[j]) ∧
      SameBytes s t (fun a => off.toNat ≤ a ∧ a < off.toNat + 2)

/-- 10_state.md R37: the layout of the PCM buffer, and that it ignores host writes. -/
def Obligations.PcmLayoutAndReadOnly : Prop :=
  (∀ (s : State) (n : Fin 576) (ch : Ch) (k : Nat), k < 2 →
    s.hostByte (0x2000 + 4 * n.val + 2 * (if ch = .c1 then 1 else 0) + k) = (slot ch s.pcm[n]).extractLsb' (8 * k) 8) ∧
  (∀ (s : State) (w : Width) (off : Offset) (val : Word), accessOk w off = true → pcmBytes off.toNat →
    s.access (.write w off val) = s)

/-! ## Control commands -/

/-- 44_control.md R210: NOP sets `DONE` only; `wr 0x008, 0` then `rd 0x004` reads 2 from a freshly reset block; a word with
`OP` 0 and any other bit set raises IllegalCommand and changes nothing else. -/
def Obligations.NopOnlySetsDone : Prop :=
  (∀ s : State, exec .nop s = .next { s with status := doneStatus s } ∧
    SameBytes s { s with status := doneStatus s } statusBytes) ∧
  (∃ t, step (State.reset.access (.write .word 0x008 0)) = .next t ∧ t.busRead 0x004 4 = 0x00000002) ∧
  (∀ s : State, EngineNext s → s.cmd.extractLsb' 0 8 = 0x00 → s.cmd.extractLsb' 8 24 ≠ 0 → step s = .next (failed s 4 0))

/-- 44_control.md R211: CLEARHIST zeroes `PREV` and `V` of every channel of its set and changes nothing else; with an
operand that is not legal it raises IllegalCommand and changes nothing else. -/
def Obligations.ClearhistResult : Prop :=
  ∀ (s : State) (all : Bool) (ch : Ch),
    (channelsLegal s all ch = false → exec (.clearhist all ch) s = .next (failed s 4 0)) ∧
    (channelsLegal s all ch = true → ∃ t, exec (.clearhist all ch) s = .next t ∧
      t = { s with
            status := doneStatus s
            chan0 := { s.chan0 with prev := t.chan0.prev, v := t.chan0.v }
            chan1 := { s.chan1 with prev := t.chan1.prev, v := t.chan1.v } } ∧
      (∀ c ∈ chans s all ch, (∀ (sb : Fin 32) (n : Fin 18), (t.chan c).prev[sb][n] = 0) ∧
        ∀ i : Fin 1024, (t.chan c).v[i] = 0) ∧
      (∀ c, c ∉ chans s all ch → t.chan c = s.chan c) ∧
      SameBytes s t statusBytes)

/-- 44_control.md R212: SILENCE zeroes the PCM buffer and changes nothing else; a word with `OP` 0x41 and any other bit set
raises IllegalCommand and changes nothing else. -/
def Obligations.SilenceResult : Prop :=
  (∀ s : State, ∃ t, exec .silence s = .next t ∧
    t = { s with status := doneStatus s, pcm := t.pcm } ∧
    (∀ n : Fin 576, t.pcm[n] = (0, 0)) ∧ (∀ a, pcmBytes a → t.hostByte a = 0) ∧
    SameBytes s t (fun a => statusBytes a ∨ pcmBytes a)) ∧
  (∀ s : State, EngineNext s → s.cmd.extractLsb' 0 8 = 0x41 → s.cmd.extractLsb' 8 24 ≠ 0 → step s = .next (failed s 4 0))

/-! ## HUFF -/

/-- 20_memory.md R61 to R64: `ReadBits(n)` gives the next `n` bits of the bit string, the first the most significant, moves
the cursor by `n` modulo 2^15, and latches a read past `MD_LEN` or a wrap; a bit past `MD_LEN` reads 0. -/
def Obligations.BitReaderReadsMsbFirst : Prop :=
  ∀ (s : State) (n : Nat) (r : Reader), ∃ v r', readBits s n r = (v, r') ∧ v < 2 ^ n ∧
    (∀ k, k < n → v.testBit (n - 1 - k) = s.stringBit (r.bitpos.toNat + k)) ∧
    r'.bitpos.toNat = (r.bitpos.toNat + n) % 2 ^ 15 ∧
    (r'.oob = true ↔ (r.oob = true ∨ (∃ k, k < n ∧ s.mdLen.toNat ≤ (r.bitpos.toNat + k) / 8) ∨
      32767 < r.bitpos.toNat + n)) ∧
    (∀ p, p / 8 < s.mdLen.toNat → s.stringBit p = (s.mdByte (p / 8)).getLsbD (7 - p % 8)) ∧
    (∀ p, s.mdLen.toNat ≤ p / 8 → s.stringBit p = false)

/-- 40_huffman.md R105, for a table of any kind of value, the pair tables and table A alike: when the bits at
the cursor, all in bounds, spell a codeword of a table and no shorter prefix
of it is a codeword, the decode gives the codeword's value and moves the cursor by its length. Whatever bits the reads
give, out of bounds or not: the decode ends at the first codeword they form, and gives none when no prefix of up to MAXLEN
bits is one, the reader then after MAXLEN bits; a bit out of bounds reads 0 and latches (20_memory.md R63). MAXLEN is the
length of the longest codeword. -/
def Obligations.DecodeCodeReadsCodeword : Prop :=
  (∀ (α : Type) (s : State) (table : List (List Bool × α)) (r : Reader),
    (∀ n v, 0 < n → table.lookup (bitsRead s r n) = some v →
      (∀ m, 0 < m → m < n → table.lookup (bitsRead s r m) = none) →
      decodeCode s table (maxLen table) [] r = (some v, readerAfter s r n)) ∧
    ((∀ n, 0 < n → n ≤ maxLen table → table.lookup (bitsRead s r n) = none) →
      decodeCode s table (maxLen table) [] r = (none, readerAfter s r (maxLen table))) ∧
    (∀ e ∈ table, e.1.length ≤ maxLen table) ∧ (table ≠ [] → ∃ e ∈ table, e.1.length = maxLen table)) ∧
  (∀ (s : State) (r : Reader), s.mdLen.toNat ≤ r.bitpos.toNat / 8 →
    readBits s 1 r = (0, { bitpos := r.bitpos + 1, oob := true })) ∧
  ∀ (α : Type) (s : State) (table : List (List Bool × α)) (code : List Bool) (v : α) (r : Reader),
    code ≠ [] → table.lookup code = some v → (∀ n, 0 < n → n < code.length → table.lookup (code.take n) = none) →
    (∀ k, k < code.length → s.stringBit (r.bitpos.toNat + k) = code.getD k false ∧
      (r.bitpos.toNat + k) / 8 < s.mdLen.toNat) →
    r.bitpos.toNat + code.length ≤ 32767 →
    decodeCode s table (maxLen table) [] r = (some v, { r with bitpos := r.bitpos + BitVec.ofNat 15 code.length })

/-- 40_huffman.md R104, R106, R107: what a pair decodes to. Table 0 gives (0, 0) and reads nothing; tables 4 and 14 give no
pair and read nothing; any other table gives a pair exactly when its prefix decode gives values, from codeword, x escape, x
sign, y escape, y sign in this order. Decoded values are at most 8206 in magnitude (by the linbits of log 4), fit `s16`, and
a zero reads no sign bit. -/
def Obligations.DecodedPairsFitS16 : Prop :=
  (∀ (s : State) (t : Nat) (r r' : Reader) (x y : Int), decodePair s t r = (some (x, y), r') →
    (-8206 ≤ x ∧ x ≤ 8206 ∧ (BitVec.ofInt 16 x).toInt = x) ∧ (-8206 ≤ y ∧ y ≤ 8206 ∧ (BitVec.ofInt 16 y).toInt = y)) ∧
  (∀ (s : State) (r : Reader), readSign s 0 r = (0, r)) ∧
  (∀ (s : State) (r : Reader),
    decodePair s 0 r = (some (0, 0), r) ∧ decodePair s 4 r = (none, r) ∧ decodePair s 14 r = (none, r)) ∧
  (∀ (s : State) (t : Nat) (r : Reader), t ≠ 0 → t ≠ 4 → t ≠ 14 →
    (∀ r1, decodeCode s (pairTable t) (maxLen (pairTable t)) [] r = (none, r1) → decodePair s t r = (none, r1)) ∧
    (∀ x0 y0 r1, decodeCode s (pairTable t) (maxLen (pairTable t)) [] r = (some (x0, y0), r1) →
      x0 ≤ 15 ∧ y0 ≤ 15 ∧
      ∃ x1 r2 x r3 y1 r4 y r5,
        EscapeRead s (linbits t) x0 r1 x1 r2 ∧ SignRead s x1 r2 x r3 ∧
        EscapeRead s (linbits t) y0 r3 y1 r4 ∧ SignRead s y1 r4 y r5 ∧
        decodePair s t r = (some (x, y), r5)))

/-- 40_huffman.md R109 with table A of 93_implementation_defined.md Part B (log 4): a quadruple always decodes, from either
table, to values -1, 0 and 1: the four bits of `h`, the complement of four bits read (table B) or the value of the prefix
decode (table A), then the signs of v, w, x, y in this order. -/
def Obligations.QuadruplesAlwaysDecode : Prop :=
  ∀ (s : State) (tableB : Bool) (r : Reader), ∃ h r0 v r1 w r2 x r3 y r4,
    h < 16 ∧
    (tableB = true → h = 15 - (readBits s 4 r).1 ∧ r0 = (readBits s 4 r).2) ∧
    (tableB = false → decodeCode s quadTableA (maxLen quadTableA) [] r = (some h, r0)) ∧
    SignRead s (h.testBit 3).toNat r0 v r1 ∧ SignRead s (h.testBit 2).toNat r1 w r2 ∧
    SignRead s (h.testBit 1).toNat r2 x r3 ∧ SignRead s (h.testBit 0).toNat r3 y r4 ∧
    decodeQuad s tableB r = (some (v, w, x, y), r4) ∧
    (v = -1 ∨ v = 0 ∨ v = 1) ∧ (w = -1 ∨ w = 0 ∨ w = 1) ∧ (x = -1 ∨ x = 0 ∨ x = 1) ∧ (y = -1 ∨ y = 0 ∨ y = 1)

/-- 40_huffman.md R100, R102, R103, R108, R110 to R112: the loops run to their ends or meet an invalid code; HUFF whose loops
run to their ends and read no bit out of bounds succeeds: `COUNT1` is the position after the roll-back, even and at most
576, `ISI` holds the decoded lines below it and 0 from it on, the cursor is at `end + 1`, modulo 2^15 (log 12). -/
def Obligations.HuffResult : Prop :=
  (∀ (s : State) (ch : Ch), ∃ h, HuffLoops s ch h ∨ HuffBreaks s ch h) ∧
  ∀ (s : State) (ch : Ch) (h : HuffRun), channelsLegal s false ch = true → (s.chan ch).bigValues ≤ 288 →
    s.tablesOk = true → SplitsOk s [ch] → HuffLoops s ch h → h.rd.oob = false →
    ∃ t p, exec (.huff ch) s = .next t ∧
      p = (if (s.chan ch).part2Start.toNat + (s.chan ch).part23Len < h.rd.bitpos.toNat then h.pos - 4 else h.pos) ∧
      p ≤ 576 ∧ p % 2 = 0 ∧ (t.chan ch).count1.toNat = p ∧
      (∀ i : Fin 576, (t.chan ch).isi[i] = if i.val < p then h.isi[i] else 0) ∧
      t.bitpos.toNat = ((s.chan ch).part2Start.toNat + (s.chan ch).part23Len) % 2 ^ 15 ∧
      t.status = doneStatus s ∧ t.errinfo = s.errinfo ∧ t.draws = s.draws ∧ HuffFrame s t ch

/-- 40_huffman.md R104, R108, R114: HUFF on a channel whose three tables are table 0 and whose region is empty, with the
cursor at `PART2_START`, succeeds with an all-zero spectrum, `COUNT1 = 2*BIG_VALUES` and the cursor where it was. -/
def Obligations.HuffEmptyRegion : Prop :=
  ∀ (s : State) (ch : Ch), channelsLegal s false ch = true → (s.chan ch).bigValues ≤ 288 → s.tablesOk = true → SplitsOk s [ch] →
    (s.chan ch).part23Len = 0 → (s.chan ch).tsel0 = 0 → (s.chan ch).tsel1 = 0 → (s.chan ch).tsel2 = 0 →
    s.bitpos = (s.chan ch).part2Start →
    ∃ t, exec (.huff ch) s = .next t ∧
      (t.chan ch).count1.toNat = 2 * (s.chan ch).bigValues ∧ (∀ i : Fin 576, (t.chan ch).isi[i] = 0) ∧
      t.bitpos = s.bitpos ∧ t.status = doneStatus s ∧ t.errinfo = s.errinfo ∧ HuffFrame s t ch

/-- 60_exceptions.md R230, R233, 20_memory.md R63, R64: a HUFF whose reads latched (a bit out of bounds, or the cursor carried
past 32767) ends with UnexpectedEOF after all its writes, the latch set, `ERRINFO` the final cursor, the channel and
`COUNT1`. Two clauses are the model's choice (log 12, DEDUCED): that a cursor a read carries past 32767 raises UnexpectedEOF
with no bit out of bounds (R64 against R233's "only when"), and that the final cursor is `end + 1` modulo 2^15. -/
def Obligations.HuffUnexpectedEof : Prop :=
  ∀ (s : State) (ch : Ch) (h : HuffRun), channelsLegal s false ch = true → (s.chan ch).bigValues ≤ 288 →
    s.tablesOk = true → SplitsOk s [ch] → HuffLoops s ch h → h.rd.oob = true →
    ∃ t p, exec (.huff ch) s = .next t ∧
      p = (if (s.chan ch).part2Start.toNat + (s.chan ch).part23Len < h.rd.bitpos.toNat then h.pos - 4 else h.pos) ∧
      (t.chan ch).count1.toNat = p ∧ (∀ i : Fin 576, (t.chan ch).isi[i] = if i.val < p then h.isi[i] else 0) ∧
      t.bitpos.toNat = ((s.chan ch).part2Start.toNat + (s.chan ch).part23Len) % 2 ^ 15 ∧
      t.status = { errorStatus s 3 with oob := true } ∧
      t.errinfo = errInfo (t.chan ch).count1 ch.isOne t.bitpos ∧ HuffFrame s t ch

/-- 40_huffman.md R105, 60_exceptions.md R230: a HUFF that meets an invalid code ends there with InvalidHuffmanCode: the
lines below `is_pos` are the decoded ones, `ERRINFO` is the cursor after the last bit read, the channel and `is_pos`; the
rest of `ISI`, `COUNT1` and `BITPOS` hold any value. That `OOB` keeps what was latched is log 11. -/
def Obligations.HuffInvalidCode : Prop :=
  ∀ (s : State) (ch : Ch) (h : HuffRun), channelsLegal s false ch = true → (s.chan ch).bigValues ≤ 288 →
    s.tablesOk = true → SplitsOk s [ch] → HuffBreaks s ch h →
    ∃ t, exec (.huff ch) s = .next t ∧
      (∀ i : Fin 576, i.val < h.pos → (t.chan ch).isi[i] = h.isi[i]) ∧
      t.status = { errorStatus s 1 with oob := s.status.oob || h.rd.oob } ∧
      t.errinfo = errInfo (BitVec.ofNat 10 h.pos) ch.isOne h.rd.bitpos ∧ HuffFrame s t ch

/-- 40_huffman.md R113 (2), 60_exceptions.md R230: more than 288 big values raise OutOfRange before any state is written. -/
def Obligations.HuffTooManyBigValues : Prop :=
  ∀ (s : State) (ch : Ch), channelsLegal s false ch = true → 288 < (s.chan ch).bigValues →
    exec (.huff ch) s = .next (failed s 2 (errInfo 0 ch.isOne s.bitpos))

/-- 10_state.md R28, R44, 60_exceptions.md R230: a reserved version or sample-rate index raises OutOfRange in every command
that reads the band tables, and an unusable mixed split in HUFF, REQUANT, REORDER, ANTIALIAS, IMDCT, BACKEND and (in joint
stereo) STEREO; which commands process a mixed block is DEDUCED (log 13). `ERRINFO` is the cursor, the first channel that
fails, 0. That channel 0 is not written where `ALL` is set and only channel 1 fails is the model's reading of
60_exceptions.md R232 (log 14, DEDUCED). The channel STEREO reports is any bit (log 15). -/
def Obligations.ReservedTableRowsRaiseOutOfRange : Prop :=
  (∀ (s : State) (all : Bool) (ch : Ch), channelsLegal s all ch = true → s.tablesOk = false →
    exec (.requant all ch) s = .next (failed s 2 (errInfo 0 ch.isOne s.bitpos)) ∧
    exec (.reorder all ch) s = .next (failed s 2 (errInfo 0 ch.isOne s.bitpos)) ∧
    (all = false → exec (.huff ch) s = .next (failed s 2 (errInfo 0 ch.isOne s.bitpos)))) ∧
  (∀ s : State, s.tablesOk = false →
    exec .backend s = .next (failed s 2 (errInfo 0 false s.bitpos)) ∧
    (s.chMode = 1 → ∃ b, exec .stereo s = .next { failed s 2 (errInfo 0 b s.bitpos) with draws := s.draws + 1 })) ∧
  (∀ (s : State) (ch : Ch), channelsLegal s false ch = true → s.tablesOk = true → (s.chan ch).mixed = true →
    s.splitOk = false →
    exec (.huff ch) s = .next (failed s 2 (errInfo 0 ch.isOne s.bitpos)) ∧
    exec (.requant false ch) s = .next (failed s 2 (errInfo 0 ch.isOne s.bitpos)) ∧
    exec (.reorder false ch) s = .next (failed s 2 (errInfo 0 ch.isOne s.bitpos))) ∧
  (∀ (s : State) (ch : Ch), channelsLegal s false ch = true → (s.chan ch).mixed = true →
    (s.tablesOk = false ∨ s.splitOk = false) →
    exec (.antialias false ch) s = .next (failed s 2 (errInfo 0 ch.isOne s.bitpos)) ∧
    exec (.imdct false ch) s = .next (failed s 2 (errInfo 0 ch.isOne s.bitpos))) ∧
  (∀ s : State, s.tablesOk = false ∨ s.splitOk = false →
    (s.chan0.mixed = true →
      exec (.antialias true .c0) s = .next (failed s 2 (errInfo 0 false s.bitpos)) ∧
      exec (.imdct true .c0) s = .next (failed s 2 (errInfo 0 false s.bitpos))) ∧
    (s.chMode ≠ 3 → s.chan0.mixed = false → s.chan1.mixed = true →
      exec (.antialias true .c0) s = .next (failed s 2 (errInfo 0 true s.bitpos)) ∧
      exec (.imdct true .c0) s = .next (failed s 2 (errInfo 0 true s.bitpos)))) ∧
  (∀ s : State, s.tablesOk = true → s.splitOk = false →
    (s.chan0.mixed = true →
      exec (.requant true .c0) s = .next (failed s 2 (errInfo 0 false s.bitpos)) ∧
      exec (.reorder true .c0) s = .next (failed s 2 (errInfo 0 false s.bitpos)) ∧
      exec .backend s = .next (failed s 2 (errInfo 0 false s.bitpos))) ∧
    (s.chMode ≠ 3 → s.chan0.mixed = false → s.chan1.mixed = true →
      exec (.requant true .c0) s = .next (failed s 2 (errInfo 0 true s.bitpos)) ∧
      exec (.reorder true .c0) s = .next (failed s 2 (errInfo 0 true s.bitpos))) ∧
    (s.chMode = 1 → (s.chan0.mixed = true ∨ s.chan1.mixed = true) →
      ∃ b, exec .stereo s = .next { failed s 2 (errInfo 0 b s.bitpos) with draws := s.draws + 1 }))

/-! ## REQUANT and REORDER -/

/-- 41_requant_stereo.md R130: REQUANT writes `FP` of the requantized value of every line of every channel of its set, 0
where `ISI` is 0, and changes nothing else. -/
def Obligations.RequantResult : Prop :=
  ∀ (s : State) (all : Bool) (ch : Ch), channelsLegal s all ch = true → s.tablesOk = true →
    SplitsOk s (chans s all ch) →
    ∃ t, exec (.requant all ch) s = .next t ∧ XrOnly s t ∧
      (∀ c ∈ chans s all ch, ∀ i : Fin 576,
        (t.chan c).xr[i] = fp (requantFormula s (s.chan c) i.val) ∧ ((s.chan c).isi[i] = 0 → (t.chan c).xr[i] = 0)) ∧
      (∀ c, c ∉ chans s all ch → (t.chan c).xr = (s.chan c).xr)

/-- 41_requant_stereo.md R131 to R133, R135: the exact value of a long line of band `b`. -/
def Obligations.RequantLongLineValue : Prop :=
  ∀ (s : State) (c : Channel) (i b : Nat), s.tablesOk = true → c.lineShort i = false → b < 22 →
    entry s.longTable b ≤ i → i < entry s.longTable (b + 1) →
    (requantFormula s c i).Denotes
      (((c.isiLine i).sign : ℝ) * (|((c.isiLine i : Int) : ℝ)| ^ ((4 : ℝ) / 3)) *
        (2 : ℝ) ^ (((c.globalGain : ℝ) - 210) / 4) *
        (2 : ℝ) ^ (-(if c.sfScale then (1 : ℝ) else 1 / 2) *
          ((if b < 21 then (c.sfByte b : ℝ) else 0) + (if c.preflag then (pretab.getD b 0 : ℝ) else 0))))

/-- 41_requant_stereo.md R131, R132, R134, R135: the exact value of a short line of band `b`, window `w`, with the source's
`SBG_EXP = 8`. -/
def Obligations.RequantShortLineValue : Prop :=
  ∀ (s : State) (c : Channel) (b w j : Nat), s.tablesOk = true → b < 13 → w < 3 →
    j < entry s.shortTable (b + 1) - entry s.shortTable b →
    c.lineShort (3 * entry s.shortTable b + w * (entry s.shortTable (b + 1) - entry s.shortTable b) + j) = true →
    ∀ i, i = 3 * entry s.shortTable b + w * (entry s.shortTable (b + 1) - entry s.shortTable b) + j →
    (requantFormula s c i).Denotes
      (((c.isiLine i).sign : ℝ) * (|((c.isiLine i : Int) : ℝ)| ^ ((4 : ℝ) / 3)) *
        (2 : ℝ) ^ (((c.globalGain : ℝ) - 210) / 4) *
        (2 : ℝ) ^ (-(8 * (c.subblockGain w : ℝ))) *
        (2 : ℝ) ^ (-(if c.sfScale then (1 : ℝ) else 1 / 2) *
          (if b < 12 then (c.sfByte (22 + 3 * b + w) : ℝ) else 0)))

/-- 41_requant_stereo.md R140: REORDER interleaves the windows of every short band of the channels of its set, line
`base + 3j + w` taking line `base + w*width + j`; long lines and everything else stay. -/
def Obligations.ReorderResult : Prop :=
  ∀ (s : State) (all : Bool) (ch : Ch), channelsLegal s all ch = true → s.tablesOk = true →
    SplitsOk s (chans s all ch) →
    ∃ t, exec (.reorder all ch) s = .next t ∧ XrOnly s t ∧
      (∀ c ∈ chans s all ch,
        (∀ i : Fin 576, (s.chan c).lineShort i.val = false → (t.chan c).xr[i] = (s.chan c).xr[i]) ∧
        (∀ b w j, b < 13 → w < 3 → j < entry s.shortTable (b + 1) - entry s.shortTable b →
          (s.chan c).lineShort (3 * entry s.shortTable b + 3 * j + w) = true →
          (t.chan c).xrLine (3 * entry s.shortTable b + 3 * j + w) =
            (s.chan c).xrLine
              (3 * entry s.shortTable b + w * (entry s.shortTable (b + 1) - entry s.shortTable b) + j))) ∧
      (∀ c, c ∉ chans s all ch → (t.chan c).xr = (s.chan c).xr)

/-! ## STEREO -/

/-- 41_requant_stereo.md R145, R146: outside joint stereo STEREO changes nothing; in joint stereo each line takes the
intensity factors where its band has them, else the mid-side matrix if it is on, else stays. -/
def Obligations.StereoResult : Prop :=
  (∀ s : State, s.chMode ≠ 1 → exec .stereo s = .next { s with status := doneStatus s }) ∧
  (∀ s : State, s.chMode = 1 → s.tablesOk = true → SplitsOk s [.c0, .c1] →
    ∃ t, exec .stereo s = .next t ∧ XrOnly s t ∧
      ∀ i : Fin 576,
        (∀ kL kR, s.isOn = true → intensityLine s i.val = some (kL, kR) →
          t.chan0.xr[i] = fp (.mul (.rat s.chan0.xr[i]) kL) ∧ t.chan1.xr[i] = fp (.mul (.rat s.chan0.xr[i]) kR)) ∧
        (s.isOn = false ∨ intensityLine s i.val = none →
          (s.msOn = true →
            t.chan0.xr[i] = fp (.div (.add (.rat s.chan0.xr[i]) (.rat s.chan1.xr[i])) (.sqrt 2)) ∧
            t.chan1.xr[i] = fp (.div (.sub (.rat s.chan0.xr[i]) (.rat s.chan1.xr[i])) (.sqrt 2))) ∧
          (s.msOn = false → t.chan0.xr[i] = s.chan0.xr[i] ∧ t.chan1.xr[i] = s.chan1.xr[i])))

/-- 41_requant_stereo.md R149, R150: the intensity factors of a position, and the illegal positions. -/
def Obligations.IntensityFactorValues : Prop :=
  ∀ (s : State) (p : Nat) (ill : Bool),
    (s.version = 0 →
      (7 ≤ p → intensityFactors s (p, ill) = none) ∧
      (p < 7 → ∃ kL kR, intensityFactors s (p, ill) = some (kL, kR) ∧
        (p ≤ 5 → kL.Denotes (Real.tan (p * Real.pi / 12) / (1 + Real.tan (p * Real.pi / 12))) ∧
          kR.Denotes (1 / (1 + Real.tan (p * Real.pi / 12)))) ∧
        (p = 6 → kL.Denotes 1 ∧ kR.Denotes 0))) ∧
    (s.version ≠ 0 →
      (ill = true → intensityFactors s (p, ill) = none) ∧
      (ill = false → ∃ kL kR, intensityFactors s (p, ill) = some (kL, kR) ∧
        ∃ io : ℝ, io = (2 : ℝ) ^ (if s.chan1.intScale then (-(1 / 2) : ℝ) else -(1 / 4)) ∧
          (p = 0 → kL.Denotes 1 ∧ kR.Denotes 1) ∧
          (p % 2 = 1 → kL.Denotes (io ^ ((p + 1) / 2)) ∧ kR.Denotes 1) ∧
          (p % 2 = 0 → 0 < p → kL.Denotes 1 ∧ kR.Denotes (io ^ (p / 2)))))

/-- 41_requant_stereo.md R147, R148, R150: which lines are intensity candidates and which position and legality bit they
take. Long right channel: the bands with no nonzero right-channel line at or above their start. Pure short: per window, the
bands with no nonzero line of that window in them or above. Mixed (with a usable split): so for the bands from 3, and never
the long part. -/
def Obligations.IntensityRegion : Prop :=
  ∀ s : State, s.tablesOk = true →
    (s.chan1.short = false → ∀ b i, b < 22 → entry s.longTable b ≤ i → i < entry s.longTable (b + 1) →
      ((∃ j, j < 576 ∧ entry s.longTable b ≤ j ∧ s.chan1.isiLine j ≠ 0) → intensityLine s i = none) ∧
      ((∀ j, j < 576 → entry s.longTable b ≤ j → s.chan1.isiLine j = 0) →
        intensityLine s i = intensityFactors s (s.chan1.sfByte (min b 20), s.isillL.getLsbD (min b 20)))) ∧
    (s.chan1.short = true → (s.chan1.mixed = true → s.splitOk = true) →
      ∀ b j w, (s.chan1.mixed = true → 3 ≤ b) → b < 13 → w < 3 → j < shortWidth s.shortTable b →
      ((∃ b' k, b ≤ b' ∧ b' < 13 ∧ k < shortWidth s.shortTable b' ∧
          s.chan1.isiLine (3 * entry s.shortTable b' + w * shortWidth s.shortTable b' + k) ≠ 0) →
        intensityLine s (3 * entry s.shortTable b + 3 * j + w) = none) ∧
      ((∀ b' k, b ≤ b' → b' < 13 → k < shortWidth s.shortTable b' →
          s.chan1.isiLine (3 * entry s.shortTable b' + w * shortWidth s.shortTable b' + k) = 0) →
        intensityLine s (3 * entry s.shortTable b + 3 * j + w) =
          intensityFactors s
            (s.chan1.sfByte (22 + 3 * min b 11 + w), (look s.isillS w 0).getLsbD (min b 11)))) ∧
    (s.chan1.mixed = true → ∀ i, i < 36 → intensityLine s i = none)

/-! ## ANTIALIAS, IMDCT, FREQINV -/

/-- 42_hybrid.md R160, on blocks the table row can split (ReservedTableRowsRaiseOutOfRange has the others): ANTIALIAS applies the butterflies of boundaries 1 to N to the channels of its set, N = 31 on a long
block, 1 on a mixed one, 0 on a pure short one; every other line, and everything else, stays. -/
def Obligations.AntialiasResult : Prop :=
  ∀ (s : State) (all : Bool) (ch : Ch), channelsLegal s all ch = true → BlocksOk s (chans s all ch) →
    ∃ t, exec (.antialias all ch) s = .next t ∧ XrOnly s t ∧
      (∀ c ∈ chans s all ch, ∃ N, N = (if (s.chan c).short then (if (s.chan c).mixed then 1 else 0) else 31) ∧
        (∀ k j, 1 ≤ k → k ≤ N → j < 8 →
          (t.chan c).xrLine (18 * k - 1 - j) =
            fp (.sub (.mul (.rat ((s.chan c).xrLine (18 * k - 1 - j))) (antialiasCs j))
              (.mul (.rat ((s.chan c).xrLine (18 * k + j))) (antialiasCa j))) ∧
          (t.chan c).xrLine (18 * k + j) =
            fp (.add (.mul (.rat ((s.chan c).xrLine (18 * k + j))) (antialiasCs j))
              (.mul (.rat ((s.chan c).xrLine (18 * k - 1 - j))) (antialiasCa j)))) ∧
        (∀ i, i < 576 → (∀ k j, 1 ≤ k → k ≤ N → j < 8 → i ≠ 18 * k - 1 - j ∧ i ≠ 18 * k + j) →
          (t.chan c).xrLine i = (s.chan c).xrLine i)) ∧
      (∀ c, c ∉ chans s all ch → (t.chan c).xr = (s.chan c).xr)

/-- 42_hybrid.md R161: the anti-alias coefficients for the default `CI` of 93_implementation_defined.md. -/
def Obligations.AntialiasCoefficients : Prop :=
  antialiasCi = [-0.6, -0.535, -0.33, -0.185, -0.095, -0.041, -0.0142, -0.0037] ∧
  ∀ i, i < 8 → ∃ x y : ℝ, (antialiasCs i).Denotes x ∧ (antialiasCa i).Denotes y ∧
    x = 1 / Real.sqrt (1 + ((antialiasCi.getD i 0 : Rat) : ℝ) ^ 2) ∧
    y = ((antialiasCi.getD i 0 : Rat) : ℝ) / Real.sqrt (1 + ((antialiasCi.getD i 0 : Rat) : ℝ) ^ 2) ∧
    x ^ 2 + y ^ 2 = 1

/-- 42_hybrid.md R165, R169, on blocks the table row can split (ReservedTableRowsRaiseOutOfRange has the others): IMDCT
transforms each subband of the channels of its set, adds the old `PREV` into `XR`, keeps
the second half in `PREV`, and changes nothing else. A long subband takes the window of its block type (0 in a mixed
block); a short one sums its three windows. -/
def Obligations.ImdctResult : Prop :=
  ∀ (s : State) (all : Bool) (ch : Ch), channelsLegal s all ch = true → BlocksOk s (chans s all ch) →
    ∃ t, exec (.imdct all ch) s = .next t ∧ XrPrevOnly s t ∧
      (∀ c ∈ chans s all ch, ∀ sb n, sb < 32 → n < 18 → ∃ y : Nat → Rat,
        ((((s.chan c).short = true ∧ (s.chan c).mixed = false) ∨ ((s.chan c).mixed = true ∧ 2 ≤ sb)) →
          ∀ i, y i = shortOutput (fun k => (s.chan c).xrLine (18 * sb + k)) i) ∧
        (¬(((s.chan c).short = true ∧ (s.chan c).mixed = false) ∨ ((s.chan c).mixed = true ∧ 2 ≤ sb)) →
          ∀ i, y i = fp (.mul (longWindow (if (s.chan c).mixed then 0 else (s.chan c).bt) i)
            (longTransform (fun k => (s.chan c).xrLine (18 * sb + k)) i))) ∧
        (t.chan c).xrLine (18 * sb + n) = fp (.add (.rat (y n)) (.rat ((s.chan c).prevAt sb n))) ∧
        (t.chan c).prevAt sb n = y (n + 18)) ∧
      (∀ c, c ∉ chans s all ch → t.chan c = s.chan c)

/-- 42_hybrid.md R165: "all-zero input gives `XR = PREV_old[0..18]` and `PREV = 0`", for a channel whose stored values are
numbers of `FP`. -/
def Obligations.ImdctOfZeroInput : Prop :=
  ∀ (s : State) (ch : Ch), channelsLegal s false ch = true → BlocksOk s [ch] → (s.chan ch).stored →
    (∀ i : Fin 576, (s.chan ch).xr[i] = 0) →
    ∃ t, exec (.imdct false ch) s = .next t ∧
      ∀ sb n, sb < 32 → n < 18 →
        (t.chan ch).xrLine (18 * sb + n) = (s.chan ch).prevAt sb n ∧ (t.chan ch).prevAt sb n = 0

/-- 42_hybrid.md R165: with the source's `SHORT_BASE = 0` a short subband has `y[24..36] = 0`, so a pure short block leaves
zeros in `PREV[sb][6..18]`. -/
def Obligations.ShortBlocksLeaveZeroTail : Prop :=
  ∀ (s t : State) (ch : Ch), channelsLegal s false ch = true → (s.chan ch).short = true → (s.chan ch).mixed = false →
    exec (.imdct false ch) s = .next t →
    ∀ sb n, sb < 32 → 6 ≤ n → n < 18 → (t.chan ch).prevAt sb n = 0

/-- 42_hybrid.md R166 to R168: the transforms and the windows as real numbers; R165, R167: the output of a short subband, the
windows w = 0, 1, 2 placed in this order at 6w (`SHORT_BASE = 0`, log 6), each accumulation stored as `FP`. -/
def Obligations.TransformsAndWindows : Prop :=
  (∀ (x : Nat → Rat) (i : Nat), (longTransform x i).Denotes
    (∑ k ∈ Finset.range 18, ((x k : Rat) : ℝ) * Real.cos (Real.pi / 72 * (2 * i + 1 + 18) * (2 * k + 1)))) ∧
  (∀ (x : Nat → Rat) (w p : Nat), (shortTransform x w p).Denotes
    (∑ m ∈ Finset.range 6, ((x (w + 3 * m) : Rat) : ℝ) * Real.cos (Real.pi / 24 * (2 * p + 1 + 6) * (2 * m + 1)))) ∧
  (∀ wt i, (wt = 0 ∨ wt = 1 ∨ wt = 3) → i < 36 → (longWindow wt i).Denotes (winReal wt i)) ∧
  (∀ p, p < 12 → (shortSine p).Denotes (Real.sin (Real.pi / 12 * (p + 1 / 2)))) ∧
  (∀ (x : Nat → Rat) (i : Nat), ∃ A : Nat → Rat, A 0 = 0 ∧
    (∀ w, w < 3 →
      (6 * w ≤ i ∧ i < 6 * w + 12 →
        A (w + 1) = fp (.add (.rat (A w)) (.mul (shortSine (i - 6 * w)) (shortTransform x w (i - 6 * w))))) ∧
      (¬(6 * w ≤ i ∧ i < 6 * w + 12) → A (w + 1) = A w)) ∧
    shortOutput x i = A 3)

/-- 42_hybrid.md R175: FREQINV negates the odd positions of the odd subbands of the channels of its set and changes nothing
else; a second FREQINV restores `XR` exactly. -/
def Obligations.FreqinvResult : Prop :=
  ∀ (s : State) (all : Bool) (ch : Ch), channelsLegal s all ch = true →
    ∃ t u, exec (.freqinv all ch) s = .next t ∧ XrOnly s t ∧
      (∀ c ∈ chans s all ch, ∀ sb k, sb < 32 → k < 18 →
        (t.chan c).xrLine (18 * sb + k) =
          if sb % 2 = 1 ∧ k % 2 = 1 then -(s.chan c).xrLine (18 * sb + k) else (s.chan c).xrLine (18 * sb + k)) ∧
      (∀ c, c ∉ chans s all ch → (t.chan c).xr = (s.chan c).xr) ∧
      exec (.freqinv all ch) t = .next u ∧ ∀ c, (u.chan c).xr = (s.chan c).xr

/-! ## SYNTH and BACKEND -/

/-- 43_synthesis.md R190 to R192, R196, R197: SYNTH runs the 18 rows of every channel of its set in order: each row shifts
`V` by 64, writes the 64 matrix outputs, and gives the 32 samples of `PCM[32t .. 32t+32]`; a mono stream has both slots
equal, a stream of two channels keeps the other channel's slot; nothing else changes. -/
def Obligations.SynthResult : Prop :=
  ∀ (s : State) (all : Bool) (ch : Ch), channelsLegal s all ch = true →
    ∃ t, exec (.synth all ch) s = .next t ∧ VPcmOnly s t ∧
      (∀ c ∈ chans s all ch, ∃ W : Nat → Vector Rat 1024, W 0 = (s.chan c).v ∧ W 18 = (t.chan c).v ∧
        ∀ r, r < 18 →
          (∀ i, i < 64 → look (W (r + 1)) i 0 = fp (matrixFormula (s.chan c) r i)) ∧
          (∀ i, 64 ≤ i → i < 1024 → look (W (r + 1)) i 0 = look (W r) (i - 64) 0) ∧
          (∀ j, j < 32 → slot c (look t.pcm (32 * r + j) (0, 0)) = pcmCode (synthOutput (W (r + 1)) j))) ∧
      (∀ c, c ∉ chans s all ch → t.chan c = s.chan c) ∧
      (s.chMode = 3 → ∀ n : Fin 576, t.pcm[n].2 = t.pcm[n].1) ∧
      (s.chMode ≠ 3 → ∀ c, c ∉ chans s all ch → ∀ n : Fin 576, slot c t.pcm[n] = slot c s.pcm[n])

/-- 43_synthesis.md R192 to R195: the matrixing as a real number, the gather of `U`, the window `Wv[i] = FP(U[i] * D[i])`,
and the outputs `o[j]`, `FP` of the sum of 16 windowed values. -/
def Obligations.SynthesisFormulas : Prop :=
  (∀ (c : Channel) (t i : Nat), (matrixFormula c t i).Denotes
    (∑ k ∈ Finset.range 32,
      Real.cos ((2 * k + 1) * (i + 16) * Real.pi / 64) * ((c.xrLine (18 * k + t) : Rat) : ℝ))) ∧
  (∀ (v : Vector Rat 1024) (r j : Nat), r < 8 → j < 32 →
    gathered v (64 * r + j) = look v (128 * r + j) 0 ∧ gathered v (64 * r + 32 + j) = look v (128 * r + 96 + j) 0) ∧
  (∀ (v : Vector Rat 1024) (i : Nat), i < 512 → ∃ f : Formula, windowed v i = fp f ∧
    f.Denotes (((gathered v i : Rat) : ℝ) * ((Config.synthWindow i : Rat) : ℝ))) ∧
  (∀ (v : Vector Rat 1024) (j : Nat), j < 32 → ∃ f : Formula, synthOutput v j = fp f ∧
    f.Denotes (∑ r ∈ Finset.range 16, ((windowed v (j + 32 * r) : Rat) : ℝ)))

/-- 43_synthesis.md R196: the int16 code is `o * PCM_SCALE` truncated toward zero and saturated. -/
def Obligations.PcmConversion : Prop :=
  (∀ o : Rat, (pcmCode o).toInt = max (-32768) (min 32767 (truncate (o * Config.pcmScale)))) ∧
  (∀ q : Rat, 0 ≤ q → truncate q = ⌊q⌋) ∧ (∀ q : Rat, q ≤ 0 → truncate q = ⌈q⌉)

/-- 43_synthesis.md R190: "with `XR[ch] = 0` and `V[ch] = 0` every output is 0 and `V[ch]` stays 0". -/
def Obligations.SynthOfSilence : Prop :=
  ∀ (s : State) (ch : Ch), channelsLegal s false ch = true → (∀ i : Fin 576, (s.chan ch).xr[i] = 0) →
    (∀ i : Fin 1024, (s.chan ch).v[i] = 0) →
    ∃ t, exec (.synth false ch) s = .next t ∧ (∀ n : Fin 576, slot ch t.pcm[n] = 0) ∧
      ∀ i : Fin 1024, (t.chan ch).v[i] = 0

/-- 44_control.md R213: BACKEND on a granule whose tables are usable ends well, in the very state that REQUANT, REORDER,
STEREO, ANTIALIAS, IMDCT, FREQINV and SYNTH, each on all channels, lead to one after the other. -/
def Obligations.BackendRunsItsSteps : Prop :=
  ∀ s : State, s.tablesOk = true → SplitsOk s s.channels →
    ∃ s1 s2 s3 s4 s5 s6 t,
      exec (.requant true .c0) s = .next s1 ∧ exec (.reorder true .c0) s1 = .next s2 ∧ exec .stereo s2 = .next s3 ∧
      exec (.antialias true .c0) s3 = .next s4 ∧ exec (.imdct true .c0) s4 = .next s5 ∧
      exec (.freqinv true .c0) s5 = .next s6 ∧ exec (.synth true .c0) s6 = .next t ∧
      exec .backend s = .next t ∧ t.status = doneStatus s

/-- 44_control.md R213: the first step that fails ends BACKEND with its error, and the steps before it keep their writes:
when only channel 1's mixed block cannot be split, channel 0 is requantized and reordered. -/
def Obligations.BackendKeepsEarlierSteps : Prop :=
  ∀ s : State, s.tablesOk = true → s.chMode ≠ 3 → s.chan0.mixed = false → s.chan1.mixed = true → s.splitOk = false →
    ∃ s1 s2, exec (.requant false .c0) s = .next s1 ∧ exec (.reorder false .c0) s1 = .next s2 ∧
      exec .backend s =
        .next { s2 with status := errorStatus s 2, errinfo := errInfo 0 true s.bitpos }
end

