-- ==== Sys2Proof/Laws/Formula.lean ====
section
/-! SUPPORT. A formula denotes one real number; where the model sees that the number is rational it sees the right one;
and `FP` gives numbers of the format and leaves those it can see alone. -/

namespace Sys2Proof.Machine

/-- Every formula denotes a real number. -/
theorem Formula.exists_denotes (t : Formula) : ∃ x, t.Denotes x := by
  induction t with
  | rat q => exact ⟨_, rfl⟩
  | add a b iha ihb => obtain ⟨y, hy⟩ := iha; obtain ⟨z, hz⟩ := ihb; exact ⟨_, y, z, hy, hz, rfl⟩
  | sub a b iha ihb => obtain ⟨y, hy⟩ := iha; obtain ⟨z, hz⟩ := ihb; exact ⟨_, y, z, hy, hz, rfl⟩
  | mul a b iha ihb => obtain ⟨y, hy⟩ := iha; obtain ⟨z, hz⟩ := ihb; exact ⟨_, y, z, hy, hz, rfl⟩
  | div a b iha ihb => obtain ⟨y, hy⟩ := iha; obtain ⟨z, hz⟩ := ihb; exact ⟨_, y, z, hy, hz, rfl⟩
  | sqrt q => exact ⟨_, rfl⟩
  | pow n e => exact ⟨_, rfl⟩
  | cosPi q => exact ⟨_, rfl⟩
  | sinPi q => exact ⟨_, rfl⟩
  | tanPi q => exact ⟨_, rfl⟩

/-- A formula denotes only one real number. -/
theorem Formula.denotes_unique {t : Formula} {x y : ℝ} (hx : t.Denotes x) (hy : t.Denotes y) : x = y := by
  induction t generalizing x y with
  | rat q => exact hx.trans hy.symm
  | add a b iha ihb =>
    obtain ⟨u, v, hu, hv, rfl⟩ := hx; obtain ⟨u', v', hu', hv', rfl⟩ := hy; rw [iha hu hu', ihb hv hv']
  | sub a b iha ihb =>
    obtain ⟨u, v, hu, hv, rfl⟩ := hx; obtain ⟨u', v', hu', hv', rfl⟩ := hy; rw [iha hu hu', ihb hv hv']
  | mul a b iha ihb =>
    obtain ⟨u, v, hu, hv, rfl⟩ := hx; obtain ⟨u', v', hu', hv', rfl⟩ := hy; rw [iha hu hu', ihb hv hv']
  | div a b iha ihb =>
    obtain ⟨u, v, hu, hv, rfl⟩ := hx; obtain ⟨u', v', hu', hv', rfl⟩ := hy; rw [iha hu hu', ihb hv hv']
  | sqrt q => exact hx.trans hy.symm
  | pow n e => exact hx.trans hy.symm
  | cosPi q => exact hx.trans hy.symm
  | sinPi q => exact hx.trans hy.symm
  | tanPi q => exact hx.trans hy.symm

/-- Whole quarter turns: the angle is the whole number of them, modulo full turns. -/
theorem quarterTurns?_spec {q : Rat} {k : Nat} (h : quarterTurns? q = some k) :
    k < 4 ∧ ∃ m : Int, Real.pi * (q : ℝ) = (k : ℝ) * (Real.pi / 2) + m * (2 * Real.pi) := by
  unfold quarterTurns? at h
  split at h
  · rename_i hd
    have hk : ((2 * q).num % 4).toNat = k := by simpa using h
    have h4 : 0 ≤ (2 * q).num % 4 ∧ (2 * q).num % 4 < 4 := ⟨Int.emod_nonneg _ (by decide), Int.emod_lt_of_pos _ (by decide)⟩
    refine ⟨by omega, (2 * q).num / 4, ?_⟩
    have hq : (2 * q : Rat) = ((2 * q).num : Rat) := by
      conv_lhs => rw [← Rat.num_div_den (2 * q), hd]
      simp
    have hn : (2 * q).num = 4 * ((2 * q).num / 4) + k := by omega
    have hr : (2 * (q : ℝ)) = ((2 * q).num : ℝ) := by exact_mod_cast congrArg (fun r : Rat => (r : ℝ)) hq
    have hnr : ((2 * q).num : ℝ) = 4 * (((2 * q).num / 4 : Int) : ℝ) + (k : ℝ) := by exact_mod_cast congrArg (fun z : Int => (z : ℝ)) hn
    have : (q : ℝ) = (4 * (((2 * q).num / 4 : Int) : ℝ) + (k : ℝ)) / 2 := by rw [← hnr, ← hr]; ring
    rw [this]; ring
  · simp at h

/-- The cosine of whole quarter turns. -/
theorem cosQuarter_spec {q : Rat} {k : Nat} (h : quarterTurns? q = some k) :
    Real.cos (Real.pi * (q : ℝ)) = (cosQuarter k : ℝ) := by
  obtain ⟨hk, m, hm⟩ := quarterTurns?_spec h
  rw [hm, Real.cos_add_int_mul_two_pi]
  have h3 : (3 : ℝ) * (Real.pi / 2) = Real.pi + Real.pi / 2 := by ring
  interval_cases k
  · simp [cosQuarter]
  · simp [cosQuarter]
  · simp [cosQuarter, mul_div_cancel₀]
  · simp [cosQuarter, h3, Real.cos_add]

/-- The sine of whole quarter turns. -/
theorem sinQuarter_spec {q : Rat} {k : Nat} (h : quarterTurns? q = some k) :
    Real.sin (Real.pi * (q : ℝ)) = (sinQuarter k : ℝ) := by
  obtain ⟨hk, m, hm⟩ := quarterTurns?_spec h
  rw [hm, Real.sin_add_int_mul_two_pi]
  have h3 : (3 : ℝ) * (Real.pi / 2) = Real.pi + Real.pi / 2 := by ring
  interval_cases k
  · simp [sinQuarter]
  · simp [sinQuarter]
  · simp [sinQuarter, mul_div_cancel₀]
  · simp [sinQuarter, h3, Real.sin_add]

/-- An exact power is the real power. -/
theorem powExact?_spec {n : Nat} {e q : Rat} (h : powExact? n e = some q) : (n : ℝ) ^ (e : ℝ) = (q : ℝ) := by
  unfold powExact? at h
  rw [Option.map_eq_some_iff] at h
  obtain ⟨r, hr, rfl⟩ := h
  have hp := List.find?_some hr
  have hrn : r ^ e.den = n := by simpa using hp
  have he : (e : ℝ) = (e.num : ℝ) / (e.den : ℝ) := by exact_mod_cast congrArg (fun x : Rat => (x : ℝ)) (Rat.num_div_den e).symm
  have hd : (e.den : ℝ) ≠ 0 := by exact_mod_cast e.den_ne_zero
  have h0 : (0 : ℝ) ≤ (r : ℝ) := Nat.cast_nonneg r
  have : (n : ℝ) = (r : ℝ) ^ (e.den : ℝ) := by rw [← hrn, Real.rpow_natCast]; push_cast; rfl
  rw [this, ← Real.rpow_mul h0, he, mul_div_cancel₀ _ hd, Real.rpow_intCast]
  push_cast
  rfl

/-- Where the model sees a rational value, it is the value. -/
theorem Formula.exact?_sound {t : Formula} {q : Rat} (h : t.exact? = some q) : t.Denotes (q : ℝ) := by
  induction t generalizing q with
  | rat r => simp only [Formula.exact?, Option.some.injEq] at h; subst h; rfl
  | add a b iha ihb =>
    simp only [Formula.exact?] at h
    split at h
    · simp at h
    · rename_i x hx
      split at h
      · rename_i h0
        subst h0
        exact ⟨_, _, iha hx, ihb h, by simp⟩
      · rw [Option.map_eq_some_iff] at h
        obtain ⟨y, hy, rfl⟩ := h
        exact ⟨_, _, iha hx, ihb hy, by push_cast; rfl⟩
  | sub a b iha ihb =>
    simp only [Formula.exact?] at h
    split at h
    · simp at h
    · rename_i x hx
      rw [Option.map_eq_some_iff] at h
      obtain ⟨y, hy, rfl⟩ := h
      exact ⟨_, _, iha hx, ihb hy, by push_cast; rfl⟩
  | mul a b iha ihb =>
    simp only [Formula.exact?] at h
    split at h
    · split at h
      · rename_i hb
        have hq : q = 0 := by simpa using h.symm
        subst hq
        obtain ⟨y, hy⟩ := a.exists_denotes
        exact ⟨y, _, hy, ihb hb, by simp⟩
      · simp at h
    · rename_i x hx
      split at h
      · rename_i h0
        have hq : q = 0 := by simpa using h.symm
        subst hq h0
        obtain ⟨y, hy⟩ := b.exists_denotes
        exact ⟨_, y, iha hx, hy, by simp⟩
      · rw [Option.map_eq_some_iff] at h
        obtain ⟨y, hy, rfl⟩ := h
        exact ⟨_, _, iha hx, ihb hy, by push_cast; rfl⟩
  | div a b iha ihb =>
    simp only [Formula.exact?] at h
    split at h
    · simp at h
    · rename_i x hx
      split at h
      · rename_i h0
        have hq : q = 0 := by simpa using h.symm
        subst hq h0
        obtain ⟨y, hy⟩ := b.exists_denotes
        exact ⟨_, y, iha hx, hy, by simp⟩
      · rw [Option.map_eq_some_iff] at h
        obtain ⟨y, hy, rfl⟩ := h
        exact ⟨_, _, iha hx, ihb hy, by push_cast; rfl⟩
  | sqrt r => simp [Formula.exact?] at h
  | pow n e => exact (powExact?_spec h).symm
  | cosPi r =>
    simp only [Formula.exact?, Option.map_eq_some_iff] at h
    obtain ⟨k, hk, rfl⟩ := h
    exact (cosQuarter_spec hk).symm
  | sinPi r =>
    simp only [Formula.exact?, Option.map_eq_some_iff] at h
    obtain ⟨k, hk, rfl⟩ := h
    exact (sinQuarter_spec hk).symm
  | tanPi r =>
    simp only [Formula.exact?] at h
    split at h
    · rename_i h0
      have hq : q = 0 := by simpa using h.symm
      subst hq h0
      simp [Formula.Denotes]
    · split at h
      · rename_i h4
        have hq : q = 1 := by simpa using h.symm
        subst hq h4
        have : Real.pi * (((1 / 4 : Rat) : ℝ)) = Real.pi / 4 := by push_cast; ring
        simp only [Formula.Denotes, this, Real.tan_pi_div_four]
        norm_num
      · simp at h

/-- Zero is a number of the format. -/
@[simp] theorem representable_zero : representable 0 = true := by simp [representable]

/-- The format is sign-magnitude. -/
@[simp] theorem representable_neg (q : Rat) : representable (-q) = representable q := by
  have : magnitude (-q) = magnitude q := by
    unfold magnitude
    rcases lt_trichotomy q 0 with h | h | h
    · simp [h, not_lt.mpr (neg_nonneg.mpr h.le)]
    · simp [h]
    · simp [h, not_lt.mpr h.le]
  simp [representable, this]

@[simp] theorem representable_toFormat (q : Rat) : representable (toFormat q) = true := by
  unfold toFormat; split <;> simp [*]

/-- `FP` gives numbers of the format. -/
@[simp] theorem representable_fp (t : Formula) : representable (fp t) = true := by
  unfold fp
  split
  · split <;> simp [*]
  · simp

/-- `FP` leaves a number of the format alone. -/
theorem fp_of_exact {t : Formula} {q : Rat} (h : t.exact? = some q) (hq : representable q = true) : fp t = q := by
  simp [fp, h, hq]

/-- `FP` of a formula seen to be 0 is 0. -/
theorem fp_of_exact_zero {t : Formula} (h : t.exact? = some 0) : fp t = 0 := fp_of_exact h representable_zero

/-- A sum of terms seen to be 0 is seen to be 0. -/
theorem Formula.exact?_sum_zero {l : List Formula} (h : ∀ t ∈ l, t.exact? = some 0) :
    (Formula.sum l).exact? = some 0 := by
  induction l with
  | nil => rfl
  | cons t l ih =>
    have h1 : t.exact? = some 0 := h t (by simp)
    have h2 := ih fun u hu => h u (by simp [hu])
    simp only [Formula.sum, List.foldr_cons] at h2 ⊢
    simp [Formula.exact?, h1, h2]

/-- A product with a zero left factor is seen to be 0. -/
theorem Formula.exact?_mul_zero_left {a : Formula} (b : Formula) (h : a.exact? = some 0) :
    (Formula.mul a b).exact? = some 0 := by simp [Formula.exact?, h]

/-- A product with a zero right factor is seen to be 0. -/
theorem Formula.exact?_mul_zero_right (a : Formula) {b : Formula} (h : b.exact? = some 0) :
    (Formula.mul a b).exact? = some 0 := by
  simp only [Formula.exact?]
  split
  · simp [h]
  · split <;> simp [h]

end Sys2Proof.Machine
end

