-- ==== Sys2Proof/Laws/Huffman.lean ====
section
/-! SUPPORT. The two loops of HUFF as the sequences of turns the statements speak of: what a loop that ends, and one that
meets an invalid pair, has gone through. -/

namespace Sys2Proof.Laws

open Machine Claims

/-- A store at the position, line by line. -/
theorem store_isi (h : HuffRun) (v : Int) (i : Fin 576) :
    (h.store v).isi[i] = if i.val = h.pos then BitVec.ofInt 16 v else h.isi[i] := by
  simp only [HuffRun.store, put, Fin.getElem_fin, Vector.getElem_setIfInBounds]
  split_ifs <;> first | rfl | omega

/-- The table of a pair is the one R102 and R103 select. -/
theorem tableFor_eq (s : State) (c : Channel) (p : Nat) : tableFor c (regions s c) p = selectedTable s c p := by
  unfold tableFor regions selectedTable Channel.short
  simp only [Bool.and_eq_true, decide_eq_true_eq]
  by_cases h : c.wsFlag = true ∧ c.blockType = 2
  · simp only [if_pos h]
  · simp only [if_neg h]

/-- What the big-values loop does in a turn is a PairStep. -/
theorem pairStep_of_decode {s : State} {c : Channel} {h : HuffRun} {x y : Int} {r : Reader}
    (hd : decodePair s (tableFor c (regions s c) h.pos) h.rd = (some (x, y), r)) :
    PairStep s c h (({ h with rd := r }.store x).store y) := by
  refine ⟨x, y, by rw [← tableFor_eq]; exact hd, rfl, fun i => ?_⟩
  rw [store_isi, store_isi]
  simp only [HuffRun.store]
  split_ifs <;> first | rfl | omega

/-- What the quadruple loop does in a turn is a QuadStep. -/
theorem quadStep_of_decode {s : State} {c : Channel} {h : HuffRun} {v w x y : Int} {r : Reader}
    (hd : decodeQuad s c.c1tsel h.rd = (some (v, w, x, y), r)) :
    QuadStep s c h (((({ h with rd := r }.store v).store w).store x).store y) := by
  refine ⟨v, w, x, y, hd, rfl, fun i => ?_⟩
  rw [store_isi, store_isi, store_isi, store_isi]
  simp only [HuffRun.store]
  split_ifs <;> first | rfl | omega

/-- Put one more element before a sequence. -/
def before (h : HuffRun) (P : Nat → HuffRun) : Nat → HuffRun
  | 0 => h
  | k + 1 => P k

/-- A first step before a sequence of steps. -/
theorem before_steps {R : HuffRun → HuffRun → Prop} {h : HuffRun} {P : Nat → HuffRun} {n : Nat} (h0 : R h (P 0))
    (hP : ∀ k, k < n → R (P k) (P (k + 1))) : ∀ k, k < n + 1 → R (before h P k) (before h P (k + 1))
  | 0, _ => h0
  | k + 1, hk => hP k (by omega)

/-- A big-values loop that ends is a sequence of `n` turns. -/
theorem pairsLoop_ok {s : State} {c : Channel} {n : Nat} {h g : HuffRun} (hl : pairsLoop s c n h = .ok g) :
    ∃ P : Nat → HuffRun, P 0 = h ∧ (∀ k, k < n → PairStep s c (P k) (P (k + 1))) ∧ P n = g := by
  induction n generalizing h with
  | zero => cases hl; exact ⟨fun _ => g, rfl, fun _ hk => absurd hk (by omega), rfl⟩
  | succ n ih =>
    unfold pairsLoop at hl
    split at hl
    · cases hl
    · rename_i hd
      obtain ⟨P, h0, hP, hn⟩ := ih hl
      exact ⟨before h P, rfl, before_steps (h0 ▸ pairStep_of_decode hd) hP, hn⟩

/-- A big-values loop that breaks is a sequence of turns up to a pair that does not decode. -/
theorem pairsLoop_error {s : State} {c : Channel} {n : Nat} {h g : HuffRun} (hl : pairsLoop s c n h = .error g) :
    ∃ (P : Nat → HuffRun) (m : Nat), P 0 = h ∧ (∀ k, k < m → PairStep s c (P k) (P (k + 1))) ∧ m < n ∧
      ∃ r, decodePair s (selectedTable s c (P m).pos) (P m).rd = (none, r) ∧ g = { P m with rd := r } := by
  induction n generalizing h with
  | zero => cases hl
  | succ n ih =>
    unfold pairsLoop at hl
    split at hl
    · rename_i hd
      cases hl
      exact ⟨fun _ => h, 0, rfl, fun _ hk => absurd hk (by omega), by omega, _, by rw [← tableFor_eq]; exact hd, rfl⟩
    · rename_i hd
      obtain ⟨P, m, h0, hP, hm, hr⟩ := ih hl
      exact ⟨before h P, m + 1, rfl, before_steps (h0 ▸ pairStep_of_decode hd) hP, by omega, hr⟩

/-- A quadruple loop that ends, with enough fuel to fill every line, is a sequence of turns until the loop test fails. -/
theorem quadsLoop_ok {s : State} {c : Channel} {n : Nat} {h g : HuffRun} (hn : 576 ≤ h.pos + 4 * n)
    (hl : quadsLoop s c n h = .ok g) :
    ∃ (Q : Nat → HuffRun) (m : Nat), Q 0 = h ∧ (∀ k, k < m → QuadGoes c (Q k) ∧ QuadStep s c (Q k) (Q (k + 1))) ∧
      ¬ QuadGoes c (Q m) ∧ g = Q m := by
  induction n generalizing h with
  | zero =>
    cases hl
    exact ⟨fun _ => g, 0, rfl, fun _ hk => absurd hk (by omega), fun hg => absurd hg.1 (by show ¬ g.pos < 572; omega), rfl⟩
  | succ n ih =>
    unfold quadsLoop at hl
    split at hl
    · rename_i hg
      split at hl
      · cases hl
      · rename_i hd
        obtain ⟨Q, m, h0, hQ, hm, he⟩ := ih (by simp only [HuffRun.store]; omega) hl
        exact ⟨before h Q, m + 1, rfl,
          before_steps (R := fun a b => QuadGoes c a ∧ QuadStep s c a b) ⟨hg, h0 ▸ quadStep_of_decode hd⟩ hQ, hm, he⟩
    · rename_i hg
      cases hl
      exact ⟨fun _ => g, 0, rfl, fun _ hk => absurd hk (by omega), hg, rfl⟩

/-- The loops of huffDecode are those of the statements. -/
theorem huffLoops_of_ok {s : State} {ch : Ch} {h : HuffRun} (hd : huffDecode s ch = .ok h) : HuffLoops s ch h := by
  unfold huffDecode at hd
  split at hd
  · cases hd
  · rename_i g hp
    obtain ⟨P, h0, hP, hn⟩ := pairsLoop_ok hp
    obtain ⟨Q, m, hQ0, hQ, hm, he⟩ := quadsLoop_ok (by omega) hd
    exact ⟨P, Q, m, h0, hP, hQ0.trans hn.symm, hQ, hm, he⟩

/-- A pair the loop cannot decode breaks HUFF. -/
theorem huffBreaks_of_pair {s : State} {ch : Ch} {h : HuffRun}
    (hd : pairsLoop s (s.chan ch) (s.chan ch).bigValues (huffStart s ch) = .error h) : HuffBreaks s ch h := by
  obtain ⟨P, m, h0, hP, hm, hr⟩ := pairsLoop_error hd
  exact ⟨P, m, h0, hP, .inl ⟨hm, hr⟩⟩

end Sys2Proof.Laws
end

