-- ==== Sys2Proof/Laws/Memory.lean ====
section
/-! SUPPORT. The main-data RAM's cells: read after write, the frame of a write, and the canonical form, which every memory
operation keeps and which makes equal memories equal data. -/

namespace Sys2Proof.Machine

@[simp] theorem Memory.find_nil (a : Nat) : Memory.find [] a = none := rfl

/-- A read of the address just written. -/
@[simp] theorem Memory.find_insert_same (m : Memory) (a : Nat) (b : Byte) : (m.insert a b).find a = some b := by
  induction m with
  | nil => simp [Memory.insert, Memory.find]
  | cons c m ih =>
    obtain ⟨k, x⟩ := c
    simp only [Memory.insert]
    split
    · simp [Memory.find]
    · split
      · simp [Memory.find]
      · have hk : k ≠ a := fun h => by omega
        simp [Memory.find, hk, ih]

/-- A write leaves every other address alone. -/
theorem Memory.find_insert_of_ne (m : Memory) {a a' : Nat} (h : a' ≠ a) (b : Byte) :
    (m.insert a b).find a' = m.find a' := by
  induction m with
  | nil => simp [Memory.insert, Memory.find, Ne.symm h]
  | cons c m ih =>
    obtain ⟨k, x⟩ := c
    simp only [Memory.insert]
    split
    · simp [Memory.find, Ne.symm h]
    · split
      · rename_i hk
        subst hk
        simp [Memory.find, Ne.symm h]
      · simp [Memory.find, ih]

/-- A write above `lo` keeps the addresses rising from `lo`. -/
theorem Memory.risesFrom_insert {m : Memory} {lo a : Nat} (hm : Memory.risesFrom lo m = true) (ha : lo < a) (b : Byte) :
    Memory.risesFrom lo (m.insert a b) = true := by
  induction m generalizing lo with
  | nil => simp [Memory.insert, Memory.risesFrom, ha]
  | cons c m ih =>
    obtain ⟨k, x⟩ := c
    simp only [Memory.risesFrom, Bool.and_eq_true, decide_eq_true_eq] at hm
    simp only [Memory.insert]
    split
    · simp [Memory.risesFrom, hm.2, *]
    · split
      · rename_i hk
        subst hk
        simp [Memory.risesFrom, ha, hm.2]
      · have : k < a := by omega
        simp [Memory.risesFrom, hm.1, ih hm.2 this]

/-- A write keeps every entry's address below a bound that its own address is below. -/
theorem Memory.all_lt_insert {m : Memory} {hi a : Nat} (hm : m.all (fun c => decide (c.1 < hi)) = true) (ha : a < hi)
    (b : Byte) : (m.insert a b).all (fun c => decide (c.1 < hi)) = true := by
  induction m with
  | nil => simp [Memory.insert, ha]
  | cons c m ih =>
    obtain ⟨k, x⟩ := c
    simp only [List.all_cons, Bool.and_eq_true, decide_eq_true_eq] at hm
    simp only [Memory.insert]
    split
    · simp [ha, hm.1, hm.2]
    · split
      · simp [ha, hm.2]
      · simp [hm.1, ih hm.2]

/-- Every write of the main-data RAM's window keeps the canonical form. -/
theorem Memory.wf_insert {m : Memory} {a : Nat} (hm : Memory.wf m = true) (lo : 0x1000 ≤ a) (hi : a < 0x1000 + mdBytes)
    (b : Byte) : Memory.wf (m.insert a b) = true := by
  simp only [Memory.wf, Bool.and_eq_true] at hm ⊢
  exact ⟨Memory.risesFrom_insert hm.1 (by omega) b, Memory.all_lt_insert hm.2 hi b⟩

/-- Nothing at or below `lo` is listed in a memory that rises from `lo`. -/
theorem Memory.find_eq_none_of_le {m : Memory} {lo a : Nat} (hm : Memory.risesFrom lo m = true) (h : a ≤ lo) :
    m.find a = none := by
  induction m generalizing lo with
  | nil => rfl
  | cons c m ih =>
    obtain ⟨k, x⟩ := c
    simp only [Memory.risesFrom, Bool.and_eq_true, decide_eq_true_eq] at hm
    have hk : k ≠ a := fun e => by omega
    simp only [Memory.find, hk, if_false]
    exact ih hm.2 (by omega)

/-- Canonical memories that read the same are the same data. -/
theorem Memory.eq_of_find {m n : Memory} {lo : Nat} (hm : Memory.risesFrom lo m = true) (hn : Memory.risesFrom lo n = true)
    (h : ∀ a, m.find a = n.find a) : m = n := by
  induction m generalizing lo n with
  | nil =>
    cases n with
    | nil => rfl
    | cons d n => have := h d.1; simp [Memory.find] at this
  | cons c m ih =>
    obtain ⟨k, x⟩ := c
    cases n with
    | nil => have := h k; simp [Memory.find] at this
    | cons d n =>
      obtain ⟨l, y⟩ := d
      simp only [Memory.risesFrom, Bool.and_eq_true, decide_eq_true_eq] at hm hn
      have hkl : k = l := by
        rcases Nat.lt_trichotomy k l with hlt | he | hgt
        · have h1 := h k
          have : Memory.find n k = none := Memory.find_eq_none_of_le hn.2 (by omega)
          simp [Memory.find, this] at h1
          omega
        · exact he
        · have h1 := h l
          have : Memory.find m l = none := Memory.find_eq_none_of_le hm.2 (by omega)
          simp [Memory.find, this] at h1
          omega
      subst hkl
      have hxy : x = y := by have := h k; simpa [Memory.find] using this
      subst hxy
      congr 1
      refine ih hm.2 hn.2 fun a => ?_
      by_cases ha : a ≤ k
      · rw [Memory.find_eq_none_of_le hm.2 ha, Memory.find_eq_none_of_le hn.2 ha]
      · have := h a
        have hk : k ≠ a := fun e => ha (by omega)
        simpa [Memory.find, hk] using this

/-- The memory after reset is canonical. -/
theorem State.reset_memory_wf : Memory.wf State.reset.mem = true := rfl

end Sys2Proof.Machine
end

