-- ==== Sys2Proof/Laws/State.lean ====
section
/-! SUPPORT. One lemma per field of State and per named update, so that no proof unfolds a record update. -/

namespace Sys2Proof.Machine

variable (s : State)

@[simp] theorem State.setChan_irqEn (ch : Ch) (c : Channel) : (s.setChan ch c).irqEn = s.irqEn := by cases ch <;> rfl

@[simp] theorem State.setChan_status (ch : Ch) (c : Channel) : (s.setChan ch c).status = s.status := by cases ch <;> rfl

@[simp] theorem State.setChan_cmd (ch : Ch) (c : Channel) : (s.setChan ch c).cmd = s.cmd := by cases ch <;> rfl

@[simp] theorem State.setChan_errinfo (ch : Ch) (c : Channel) : (s.setChan ch c).errinfo = s.errinfo := by cases ch <;> rfl

@[simp] theorem State.setChan_bitpos (ch : Ch) (c : Channel) : (s.setChan ch c).bitpos = s.bitpos := by cases ch <;> rfl

@[simp] theorem State.setChan_mdLen (ch : Ch) (c : Channel) : (s.setChan ch c).mdLen = s.mdLen := by cases ch <;> rfl

@[simp] theorem State.setChan_cfg (ch : Ch) (c : Channel) : (s.setChan ch c).cfg = s.cfg := by cases ch <;> rfl

@[simp] theorem State.setChan_isillL (ch : Ch) (c : Channel) : (s.setChan ch c).isillL = s.isillL := by cases ch <;> rfl

@[simp] theorem State.setChan_isillS (ch : Ch) (c : Channel) : (s.setChan ch c).isillS = s.isillS := by cases ch <;> rfl

@[simp] theorem State.setChan_mem (ch : Ch) (c : Channel) : (s.setChan ch c).mem = s.mem := by cases ch <;> rfl

@[simp] theorem State.setChan_pcm (ch : Ch) (c : Channel) : (s.setChan ch c).pcm = s.pcm := by cases ch <;> rfl

@[simp] theorem State.setChan_inbox (ch : Ch) (c : Channel) : (s.setChan ch c).inbox = s.inbox := by cases ch <;> rfl

@[simp] theorem State.setChan_busData (ch : Ch) (c : Channel) : (s.setChan ch c).busData = s.busData := by cases ch <;> rfl

@[simp] theorem State.setChan_draws (ch : Ch) (c : Channel) : (s.setChan ch c).draws = s.draws := by cases ch <;> rfl

@[simp] theorem State.setChan_mdDraw (ch : Ch) (c : Channel) : (s.setChan ch c).mdDraw = s.mdDraw := by cases ch <;> rfl

/-- The channel just written. -/
@[simp] theorem State.chan_setChan_same (ch : Ch) (c : Channel) : (s.setChan ch c).chan ch = c := by cases ch <;> rfl

/-- The channel not written. -/
theorem State.chan_setChan_of_ne {ch ch' : Ch} (h : ch' ≠ ch) (c : Channel) : (s.setChan ch c).chan ch' = s.chan ch' := by
  cases ch <;> cases ch' <;> first | rfl | exact absurd rfl h

@[simp] theorem State.setChan_c0_chan0 (c : Channel) : (s.setChan .c0 c).chan0 = c := rfl

@[simp] theorem State.setChan_c0_chan1 (c : Channel) : (s.setChan .c0 c).chan1 = s.chan1 := rfl

@[simp] theorem State.setChan_c1_chan0 (c : Channel) : (s.setChan .c1 c).chan0 = s.chan0 := rfl

@[simp] theorem State.setChan_c1_chan1 (c : Channel) : (s.setChan .c1 c).chan1 = c := rfl

@[simp] theorem State.chan_c0 : s.chan .c0 = s.chan0 := rfl

@[simp] theorem State.chan_c1 : s.chan .c1 = s.chan1 := rfl

@[simp] theorem State.setChan_self (ch : Ch) : s.setChan ch (s.chan ch) = s := by cases ch <;> rfl

@[simp] theorem State.setChan_setChan (ch : Ch) (c d : Channel) : (s.setChan ch c).setChan ch d = s.setChan ch d := by
  cases ch <;> rfl

/-- Writes of different channels commute. -/
theorem State.setChan_comm {a b : Ch} (h : a ≠ b) (c d : Channel) :
    (s.setChan a c).setChan b d = (s.setChan b d).setChan a c := by
  cases a <;> cases b <;> first | rfl | exact absurd rfl h

@[simp] theorem State.setXr_irqEn (ch : Ch) (x : Vector Rat 576) : (s.setXr ch x).irqEn = s.irqEn := by cases ch <;> rfl

@[simp] theorem State.setXr_status (ch : Ch) (x : Vector Rat 576) : (s.setXr ch x).status = s.status := by cases ch <;> rfl

@[simp] theorem State.setXr_cmd (ch : Ch) (x : Vector Rat 576) : (s.setXr ch x).cmd = s.cmd := by cases ch <;> rfl

@[simp] theorem State.setXr_errinfo (ch : Ch) (x : Vector Rat 576) : (s.setXr ch x).errinfo = s.errinfo := by cases ch <;> rfl

@[simp] theorem State.setXr_bitpos (ch : Ch) (x : Vector Rat 576) : (s.setXr ch x).bitpos = s.bitpos := by cases ch <;> rfl

@[simp] theorem State.setXr_mdLen (ch : Ch) (x : Vector Rat 576) : (s.setXr ch x).mdLen = s.mdLen := by cases ch <;> rfl

@[simp] theorem State.setXr_cfg (ch : Ch) (x : Vector Rat 576) : (s.setXr ch x).cfg = s.cfg := by cases ch <;> rfl

@[simp] theorem State.setXr_isillL (ch : Ch) (x : Vector Rat 576) : (s.setXr ch x).isillL = s.isillL := by cases ch <;> rfl

@[simp] theorem State.setXr_isillS (ch : Ch) (x : Vector Rat 576) : (s.setXr ch x).isillS = s.isillS := by cases ch <;> rfl

@[simp] theorem State.setXr_mem (ch : Ch) (x : Vector Rat 576) : (s.setXr ch x).mem = s.mem := by cases ch <;> rfl

@[simp] theorem State.setXr_pcm (ch : Ch) (x : Vector Rat 576) : (s.setXr ch x).pcm = s.pcm := by cases ch <;> rfl

@[simp] theorem State.setXr_inbox (ch : Ch) (x : Vector Rat 576) : (s.setXr ch x).inbox = s.inbox := by cases ch <;> rfl

@[simp] theorem State.setXr_busData (ch : Ch) (x : Vector Rat 576) : (s.setXr ch x).busData = s.busData := by cases ch <;> rfl

@[simp] theorem State.setXr_draws (ch : Ch) (x : Vector Rat 576) : (s.setXr ch x).draws = s.draws := by cases ch <;> rfl

@[simp] theorem State.setXr_mdDraw (ch : Ch) (x : Vector Rat 576) : (s.setXr ch x).mdDraw = s.mdDraw := by cases ch <;> rfl

@[simp] theorem State.chan_setXr_same (ch : Ch) (x : Vector Rat 576) : (s.setXr ch x).chan ch = { s.chan ch with xr := x } := by
  cases ch <;> rfl

theorem State.chan_setXr_of_ne {ch ch' : Ch} (h : ch' ≠ ch) (x : Vector Rat 576) : (s.setXr ch x).chan ch' = s.chan ch' := by
  cases ch <;> cases ch' <;> first | rfl | exact absurd rfl h

@[simp] theorem State.endDone_irqEn : (s.endDone).irqEn = s.irqEn := rfl

@[simp] theorem State.endDone_status : (s.endDone).status = { s.status with busy := false, done := true } :=
  rfl

@[simp] theorem State.endDone_cmd : (s.endDone).cmd = s.cmd := rfl

@[simp] theorem State.endDone_errinfo : (s.endDone).errinfo = s.errinfo := rfl

@[simp] theorem State.endDone_bitpos : (s.endDone).bitpos = s.bitpos := rfl

@[simp] theorem State.endDone_mdLen : (s.endDone).mdLen = s.mdLen := rfl

@[simp] theorem State.endDone_cfg : (s.endDone).cfg = s.cfg := rfl

@[simp] theorem State.endDone_chan0 : (s.endDone).chan0 = s.chan0 := rfl

@[simp] theorem State.endDone_chan1 : (s.endDone).chan1 = s.chan1 := rfl

@[simp] theorem State.endDone_isillL : (s.endDone).isillL = s.isillL := rfl

@[simp] theorem State.endDone_isillS : (s.endDone).isillS = s.isillS := rfl

@[simp] theorem State.endDone_mem : (s.endDone).mem = s.mem := rfl

@[simp] theorem State.endDone_pcm : (s.endDone).pcm = s.pcm := rfl

@[simp] theorem State.endDone_inbox : (s.endDone).inbox = s.inbox := rfl

@[simp] theorem State.endDone_busData : (s.endDone).busData = s.busData := rfl

@[simp] theorem State.endDone_draws : (s.endDone).draws = s.draws := rfl

@[simp] theorem State.endDone_mdDraw : (s.endDone).mdDraw = s.mdDraw := rfl

@[simp] theorem State.endError_irqEn (e : CmdError) : (s.endError e).irqEn = s.irqEn := rfl

@[simp] theorem State.endError_status (e : CmdError) : (s.endError e).status = { s.status with busy := false, err := true, errcode := e.kind.code } :=
  rfl

@[simp] theorem State.endError_cmd (e : CmdError) : (s.endError e).cmd = s.cmd := rfl

@[simp] theorem State.endError_errinfo (e : CmdError) : (s.endError e).errinfo = e.info := rfl

@[simp] theorem State.endError_bitpos (e : CmdError) : (s.endError e).bitpos = s.bitpos := rfl

@[simp] theorem State.endError_mdLen (e : CmdError) : (s.endError e).mdLen = s.mdLen := rfl

@[simp] theorem State.endError_cfg (e : CmdError) : (s.endError e).cfg = s.cfg := rfl

@[simp] theorem State.endError_chan0 (e : CmdError) : (s.endError e).chan0 = s.chan0 := rfl

@[simp] theorem State.endError_chan1 (e : CmdError) : (s.endError e).chan1 = s.chan1 := rfl

@[simp] theorem State.endError_isillL (e : CmdError) : (s.endError e).isillL = s.isillL := rfl

@[simp] theorem State.endError_isillS (e : CmdError) : (s.endError e).isillS = s.isillS := rfl

@[simp] theorem State.endError_mem (e : CmdError) : (s.endError e).mem = s.mem := rfl

@[simp] theorem State.endError_pcm (e : CmdError) : (s.endError e).pcm = s.pcm := rfl

@[simp] theorem State.endError_inbox (e : CmdError) : (s.endError e).inbox = s.inbox := rfl

@[simp] theorem State.endError_busData (e : CmdError) : (s.endError e).busData = s.busData := rfl

@[simp] theorem State.endError_draws (e : CmdError) : (s.endError e).draws = s.draws := rfl

@[simp] theorem State.endError_mdDraw (e : CmdError) : (s.endError e).mdDraw = s.mdDraw := rfl

@[simp] theorem State.ackError_irqEn : (s.ackError).irqEn = s.irqEn := rfl

@[simp] theorem State.ackError_status : (s.ackError).status = { s.status with err := false, errcode := 0 } :=
  rfl

@[simp] theorem State.ackError_cmd : (s.ackError).cmd = s.cmd := rfl

@[simp] theorem State.ackError_errinfo : (s.ackError).errinfo = 0 := rfl

@[simp] theorem State.ackError_bitpos : (s.ackError).bitpos = s.bitpos := rfl

@[simp] theorem State.ackError_mdLen : (s.ackError).mdLen = s.mdLen := rfl

@[simp] theorem State.ackError_cfg : (s.ackError).cfg = s.cfg := rfl

@[simp] theorem State.ackError_chan0 : (s.ackError).chan0 = s.chan0 := rfl

@[simp] theorem State.ackError_chan1 : (s.ackError).chan1 = s.chan1 := rfl

@[simp] theorem State.ackError_isillL : (s.ackError).isillL = s.isillL := rfl

@[simp] theorem State.ackError_isillS : (s.ackError).isillS = s.isillS := rfl

@[simp] theorem State.ackError_mem : (s.ackError).mem = s.mem := rfl

@[simp] theorem State.ackError_pcm : (s.ackError).pcm = s.pcm := rfl

@[simp] theorem State.ackError_inbox : (s.ackError).inbox = s.inbox := rfl

@[simp] theorem State.ackError_busData : (s.ackError).busData = s.busData := rfl

@[simp] theorem State.ackError_draws : (s.ackError).draws = s.draws := rfl

@[simp] theorem State.ackError_mdDraw : (s.ackError).mdDraw = s.mdDraw := rfl

@[simp] theorem State.startCommand_irqEn (w : Word) : (s.startCommand w).irqEn = s.irqEn := rfl

@[simp] theorem State.startCommand_status (w : Word) : (s.startCommand w).status = { s.status with busy := true } :=
  rfl

@[simp] theorem State.startCommand_cmd (w : Word) : (s.startCommand w).cmd = w := rfl

@[simp] theorem State.startCommand_errinfo (w : Word) : (s.startCommand w).errinfo = s.errinfo := rfl

@[simp] theorem State.startCommand_bitpos (w : Word) : (s.startCommand w).bitpos = s.bitpos := rfl

@[simp] theorem State.startCommand_mdLen (w : Word) : (s.startCommand w).mdLen = s.mdLen := rfl

@[simp] theorem State.startCommand_cfg (w : Word) : (s.startCommand w).cfg = s.cfg := rfl

@[simp] theorem State.startCommand_chan0 (w : Word) : (s.startCommand w).chan0 = s.chan0 := rfl

@[simp] theorem State.startCommand_chan1 (w : Word) : (s.startCommand w).chan1 = s.chan1 := rfl

@[simp] theorem State.startCommand_isillL (w : Word) : (s.startCommand w).isillL = s.isillL := rfl

@[simp] theorem State.startCommand_isillS (w : Word) : (s.startCommand w).isillS = s.isillS := rfl

@[simp] theorem State.startCommand_mem (w : Word) : (s.startCommand w).mem = s.mem := rfl

@[simp] theorem State.startCommand_pcm (w : Word) : (s.startCommand w).pcm = s.pcm := rfl

@[simp] theorem State.startCommand_inbox (w : Word) : (s.startCommand w).inbox = s.inbox := rfl

@[simp] theorem State.startCommand_busData (w : Word) : (s.startCommand w).busData = s.busData := rfl

@[simp] theorem State.startCommand_draws (w : Word) : (s.startCommand w).draws = s.draws := rfl

@[simp] theorem State.startCommand_mdDraw (w : Word) : (s.startCommand w).mdDraw = s.mdDraw := rfl

@[simp] theorem State.overrun_irqEn : (s.overrun).irqEn = s.irqEn := rfl

@[simp] theorem State.overrun_status : (s.overrun).status = { s.status with overrun := true } := rfl

@[simp] theorem State.overrun_cmd : (s.overrun).cmd = s.cmd := rfl

@[simp] theorem State.overrun_errinfo : (s.overrun).errinfo = s.errinfo := rfl

@[simp] theorem State.overrun_bitpos : (s.overrun).bitpos = s.bitpos := rfl

@[simp] theorem State.overrun_mdLen : (s.overrun).mdLen = s.mdLen := rfl

@[simp] theorem State.overrun_cfg : (s.overrun).cfg = s.cfg := rfl

@[simp] theorem State.overrun_chan0 : (s.overrun).chan0 = s.chan0 := rfl

@[simp] theorem State.overrun_chan1 : (s.overrun).chan1 = s.chan1 := rfl

@[simp] theorem State.overrun_isillL : (s.overrun).isillL = s.isillL := rfl

@[simp] theorem State.overrun_isillS : (s.overrun).isillS = s.isillS := rfl

@[simp] theorem State.overrun_mem : (s.overrun).mem = s.mem := rfl

@[simp] theorem State.overrun_pcm : (s.overrun).pcm = s.pcm := rfl

@[simp] theorem State.overrun_inbox : (s.overrun).inbox = s.inbox := rfl

@[simp] theorem State.overrun_busData : (s.overrun).busData = s.busData := rfl

@[simp] theorem State.overrun_draws : (s.overrun).draws = s.draws := rfl

@[simp] theorem State.overrun_mdDraw : (s.overrun).mdDraw = s.mdDraw := rfl

@[simp] theorem State.softReset_irqEn : (s.softReset).irqEn = State.reset.irqEn := rfl

@[simp] theorem State.softReset_status : (s.softReset).status = State.reset.status := rfl

@[simp] theorem State.softReset_cmd : (s.softReset).cmd = State.reset.cmd := rfl

@[simp] theorem State.softReset_errinfo : (s.softReset).errinfo = State.reset.errinfo := rfl

@[simp] theorem State.softReset_bitpos : (s.softReset).bitpos = State.reset.bitpos := rfl

@[simp] theorem State.softReset_mdLen : (s.softReset).mdLen = State.reset.mdLen := rfl

@[simp] theorem State.softReset_cfg : (s.softReset).cfg = State.reset.cfg := rfl

@[simp] theorem State.softReset_chan0 : (s.softReset).chan0 = State.reset.chan0 := rfl

@[simp] theorem State.softReset_chan1 : (s.softReset).chan1 = State.reset.chan1 := rfl

@[simp] theorem State.softReset_isillL : (s.softReset).isillL = State.reset.isillL := rfl

@[simp] theorem State.softReset_isillS : (s.softReset).isillS = State.reset.isillS := rfl

@[simp] theorem State.softReset_mem : (s.softReset).mem = s.mem := rfl

@[simp] theorem State.softReset_pcm : (s.softReset).pcm = State.reset.pcm := rfl

@[simp] theorem State.softReset_inbox : (s.softReset).inbox = s.inbox := rfl

@[simp] theorem State.softReset_busData : (s.softReset).busData = s.busData := rfl

@[simp] theorem State.softReset_draws : (s.softReset).draws = s.draws := rfl

@[simp] theorem State.softReset_mdDraw : (s.softReset).mdDraw = s.mdDraw := rfl

@[simp] theorem State.hardReset_irqEn : (s.hardReset).irqEn = State.reset.irqEn := rfl

@[simp] theorem State.hardReset_status : (s.hardReset).status = State.reset.status := rfl

@[simp] theorem State.hardReset_cmd : (s.hardReset).cmd = State.reset.cmd := rfl

@[simp] theorem State.hardReset_errinfo : (s.hardReset).errinfo = State.reset.errinfo := rfl

@[simp] theorem State.hardReset_bitpos : (s.hardReset).bitpos = State.reset.bitpos := rfl

@[simp] theorem State.hardReset_mdLen : (s.hardReset).mdLen = State.reset.mdLen := rfl

@[simp] theorem State.hardReset_cfg : (s.hardReset).cfg = State.reset.cfg := rfl

@[simp] theorem State.hardReset_chan0 : (s.hardReset).chan0 = State.reset.chan0 := rfl

@[simp] theorem State.hardReset_chan1 : (s.hardReset).chan1 = State.reset.chan1 := rfl

@[simp] theorem State.hardReset_isillL : (s.hardReset).isillL = State.reset.isillL := rfl

@[simp] theorem State.hardReset_isillS : (s.hardReset).isillS = State.reset.isillS := rfl

@[simp] theorem State.hardReset_mem : (s.hardReset).mem = State.reset.mem := rfl

@[simp] theorem State.hardReset_pcm : (s.hardReset).pcm = State.reset.pcm := rfl

@[simp] theorem State.hardReset_inbox : (s.hardReset).inbox = s.inbox := rfl

@[simp] theorem State.hardReset_busData : (s.hardReset).busData = s.busData := rfl

@[simp] theorem State.hardReset_draws : (s.hardReset).draws = s.draws + 1 := rfl

@[simp] theorem State.hardReset_mdDraw : (s.hardReset).mdDraw = s.draws + 1 := rfl

@[simp] theorem State.writeStatus_irqEn (w : Word) : (s.writeStatus w).irqEn = s.irqEn := by
  unfold State.writeStatus; split <;> rfl

@[simp] theorem State.writeStatus_cmd (w : Word) : (s.writeStatus w).cmd = s.cmd := by
  unfold State.writeStatus; split <;> rfl

@[simp] theorem State.writeStatus_bitpos (w : Word) : (s.writeStatus w).bitpos = s.bitpos := by
  unfold State.writeStatus; split <;> rfl

@[simp] theorem State.writeStatus_mdLen (w : Word) : (s.writeStatus w).mdLen = s.mdLen := by
  unfold State.writeStatus; split <;> rfl

@[simp] theorem State.writeStatus_cfg (w : Word) : (s.writeStatus w).cfg = s.cfg := by
  unfold State.writeStatus; split <;> rfl

@[simp] theorem State.writeStatus_chan0 (w : Word) : (s.writeStatus w).chan0 = s.chan0 := by
  unfold State.writeStatus; split <;> rfl

@[simp] theorem State.writeStatus_chan1 (w : Word) : (s.writeStatus w).chan1 = s.chan1 := by
  unfold State.writeStatus; split <;> rfl

@[simp] theorem State.writeStatus_isillL (w : Word) : (s.writeStatus w).isillL = s.isillL := by
  unfold State.writeStatus; split <;> rfl

@[simp] theorem State.writeStatus_isillS (w : Word) : (s.writeStatus w).isillS = s.isillS := by
  unfold State.writeStatus; split <;> rfl

@[simp] theorem State.writeStatus_mem (w : Word) : (s.writeStatus w).mem = s.mem := by
  unfold State.writeStatus; split <;> rfl

@[simp] theorem State.writeStatus_pcm (w : Word) : (s.writeStatus w).pcm = s.pcm := by
  unfold State.writeStatus; split <;> rfl

@[simp] theorem State.writeStatus_inbox (w : Word) : (s.writeStatus w).inbox = s.inbox := by
  unfold State.writeStatus; split <;> rfl

@[simp] theorem State.writeStatus_busData (w : Word) : (s.writeStatus w).busData = s.busData := by
  unfold State.writeStatus; split <;> rfl

@[simp] theorem State.writeStatus_draws (w : Word) : (s.writeStatus w).draws = s.draws := by
  unfold State.writeStatus; split <;> rfl

@[simp] theorem State.writeStatus_mdDraw (w : Word) : (s.writeStatus w).mdDraw = s.mdDraw := by
  unfold State.writeStatus; split <;> rfl

/-- `ERRINFO` after a write of `STATUS`: cleared with `ERR`. -/
@[simp] theorem State.writeStatus_errinfo (w : Word) : (s.writeStatus w).errinfo = if w.getLsbD 2 then 0 else s.errinfo := by
  unfold State.writeStatus; split <;> simp

@[simp] theorem State.endDone_chan (ch : Ch) : s.endDone.chan ch = s.chan ch := by cases ch <;> rfl

@[simp] theorem State.endError_chan (e : CmdError) (ch : Ch) : (s.endError e).chan ch = s.chan ch := by cases ch <;> rfl

end Sys2Proof.Machine
end

