-- ==== Sys2Proof/Laws/Ops.lean ====
section
/-! SUPPORT. The array accessors, and one lemma for each shared operation of a command: how its body ends, how a
per-channel command ends, and that what one channel's effect keeps, the whole command keeps. -/

namespace Sys2Proof.Machine

section arrays

variable {α : Type} {n : Nat}

@[simp] theorem look_lt (v : Vector α n) {i : Nat} (d : α) (h : i < n) : look v i d = v[i] := by simp [look, h]

theorem look_ge (v : Vector α n) {i : Nat} (d : α) (h : n ≤ i) : look v i d = d := by
  simp [look, Nat.not_lt.mpr h]

/-- An element just replaced. -/
theorem look_put_same (v : Vector α n) {i : Nat} (x d : α) (h : i < n) : look (put v i x) i d = x := by
  simp [look, put, h]

/-- Replacing an element leaves the others alone. -/
theorem look_put_of_ne (v : Vector α n) {i j : Nat} (x d : α) (h : i ≠ j) : look (put v i x) j d = look v j d := by
  unfold look put
  split
  · simp [h]
  · rfl

theorem look_replicate (x d : α) {i : Nat} (h : i < n) : look (Vector.replicate n x) i d = x := by simp [look, h]

theorem look_ofFn (f : Fin n → α) {i : Nat} (d : α) (h : i < n) : look (Vector.ofFn f) i d = f ⟨i, h⟩ := by
  simp [look, h]

end arrays

/-- A command always ends in a next state: DONE in the state its body left, or the error it raised. -/
theorem finish_next {r : CmdResult} {t : State} (h : finish r = .next t) :
    (∃ u, r = .ok u ∧ t = u.endDone) ∨ (∃ e u, r = .err e u ∧ t = u.endError e) := by
  cases r with
  | ok u => exact .inl ⟨u, rfl, by simpa [finish] using h.symm⟩
  | err e u => exact .inr ⟨e, u, rfl, by simpa [finish] using h.symm⟩

@[simp] theorem finish_ok (s : State) : finish (.ok s) = .next s.endDone := rfl

@[simp] theorem finish_err (e : CmdError) (s : State) : finish (.err e s) = .next (s.endError e) := rfl

/-- A step after another ends well only if both do. -/
theorem andThen_ok {r : CmdResult} {f : State → CmdResult} {t : State} (h : r.andThen f = .ok t) :
    ∃ u, r = .ok u ∧ f u = .ok t := by
  cases r with
  | ok u => exact ⟨u, rfl, h⟩
  | err e u => simp [CmdResult.andThen] at h

/-- A step after another fails with the first one's error, or with its own. -/
theorem andThen_err {r : CmdResult} {f : State → CmdResult} {e : CmdError} {t : State} (h : r.andThen f = .err e t) :
    r = .err e t ∨ ∃ u, r = .ok u ∧ f u = .err e t := by
  cases r with
  | ok u => exact .inr ⟨u, rfl, h⟩
  | err e' u => exact .inl h

/-- One channel's step: it raises its check's error in the state as it was, or has its effect. -/
theorem oneChannel_cases (check : State → Ch → Option CmdError) (effect : State → Ch → State) (ch : Ch) (s : State) :
    (∃ e, check s ch = some e ∧ oneChannel check effect ch s = .err e s) ∨
    (check s ch = none ∧ oneChannel check effect ch s = .ok (effect s ch)) := by
  unfold oneChannel
  cases h : check s ch with
  | some e => exact .inl ⟨e, rfl, rfl⟩
  | none => exact .inr ⟨rfl, rfl⟩

/-- A per-channel command: an error, in the state as it was, or every channel's effect. -/
theorem perChannel_cases (check : State → Ch → Option CmdError) (effect : State → Ch → State) (all : Bool) (ch : Ch)
    (s : State) :
    (channelsLegal s all ch = false ∧ perChannel check effect all ch s = .err illegalCommand s) ∨
    (channelsLegal s all ch = true ∧ ∃ e, (∃ c ∈ chans s all ch, check s c = some e) ∧
      perChannel check effect all ch s = .err e s) ∨
    (channelsLegal s all ch = true ∧ (∀ c ∈ chans s all ch, check s c = none) ∧
      perChannel check effect all ch s = .ok ((chans s all ch).foldl effect s)) := by
  unfold perChannel
  cases hl : channelsLegal s all ch with
  | false => exact .inl ⟨rfl, rfl⟩
  | true =>
    cases hf : (chans s all ch).findSome? (check s) with
    | some e =>
      obtain ⟨c, hc, he⟩ := List.exists_of_findSome?_eq_some hf
      exact .inr (.inl ⟨rfl, e, ⟨c, hc, he⟩, rfl⟩)
    | none => exact .inr (.inr ⟨rfl, by simpa using hf, rfl⟩)

/-- A command with no check of its own ends well on a legal operand. -/
theorem perChannel_noCheck (effect : State → Ch → State) (all : Bool) (ch : Ch) (s : State)
    (h : channelsLegal s all ch = true) :
    perChannel noCheck effect all ch s = .ok ((chans s all ch).foldl effect s) := by
  rcases perChannel_cases noCheck effect all ch s with h' | h' | h'
  · simp [h] at h'
  · obtain ⟨-, e, ⟨c, -, hc⟩, -⟩ := h'
    simp [noCheck] at hc
  · exact h'.2.2

/-- What each channel's effect keeps, all of them keep. -/
theorem foldl_keeps {P : State → Prop} {effect : State → Ch → State} (h : ∀ s ch, P s → P (effect s ch)) (l : List Ch)
    {s : State} (hs : P s) : P (l.foldl effect s) := by
  induction l generalizing s with
  | nil => exact hs
  | cons c l ih => exact ih (h s c hs)

/-- The channel set of a command (30_encoding.md R81) is one of three. -/
theorem chans_cases (s : State) (all : Bool) (ch : Ch) :
    chans s all ch = [.c0] ∨ chans s all ch = [.c1] ∨ chans s all ch = [.c0, .c1] := by
  unfold chans State.channels
  by_cases h : s.chMode = 3 <;> cases all <;> cases ch <;> simp [h]

end Sys2Proof.Machine
end

