-- ==== Sys2Proof/Laws/PerInstr.lean ====
section
/-! SUPPORT. Statements for all commands as syntax, one lemma per constructor. -/

namespace Sys2Proof.Laws

/-- A well-formed command's word has its reserved bits 0, its opcode in `OP`, and is read back as the command
(30_encoding.md R80, R83). -/
def EncodedFields.Statement (i : Instr) : Prop :=
  i.wellFormed = true → rsvField (encode i) = 0 ∧ opField (encode i) = (opcode i).toNat ∧ decode (encode i) = .ok i

theorem EncodedFields.nop : EncodedFields.Statement .nop := by unfold EncodedFields.Statement; decide

theorem EncodedFields.clearhist (all : Bool) (ch : Ch) : EncodedFields.Statement (.clearhist all ch) := by
  unfold EncodedFields.Statement; cases all <;> cases ch <;> decide

theorem EncodedFields.huff (ch : Ch) : EncodedFields.Statement (.huff ch) := by
  unfold EncodedFields.Statement; cases ch <;> decide

theorem EncodedFields.requant (all : Bool) (ch : Ch) : EncodedFields.Statement (.requant all ch) := by
  unfold EncodedFields.Statement; cases all <;> cases ch <;> decide

theorem EncodedFields.reorder (all : Bool) (ch : Ch) : EncodedFields.Statement (.reorder all ch) := by
  unfold EncodedFields.Statement; cases all <;> cases ch <;> decide

theorem EncodedFields.stereo : EncodedFields.Statement .stereo := by unfold EncodedFields.Statement; decide

theorem EncodedFields.antialias (all : Bool) (ch : Ch) : EncodedFields.Statement (.antialias all ch) := by
  unfold EncodedFields.Statement; cases all <;> cases ch <;> decide

theorem EncodedFields.imdct (all : Bool) (ch : Ch) : EncodedFields.Statement (.imdct all ch) := by
  unfold EncodedFields.Statement; cases all <;> cases ch <;> decide

theorem EncodedFields.freqinv (all : Bool) (ch : Ch) : EncodedFields.Statement (.freqinv all ch) := by
  unfold EncodedFields.Statement; cases all <;> cases ch <;> decide

theorem EncodedFields.synth (all : Bool) (ch : Ch) : EncodedFields.Statement (.synth all ch) := by
  unfold EncodedFields.Statement; cases all <;> cases ch <;> decide

theorem EncodedFields.silence : EncodedFields.Statement .silence := by unfold EncodedFields.Statement; decide

theorem EncodedFields.backend : EncodedFields.Statement .backend := by unfold EncodedFields.Statement; decide

end Sys2Proof.Laws
end

