-- ==== Sys2Proof/Tests/Slice0.lean ====
section
/-! SUPPORT. Small tests whose expected results are those of spec/95_test_vectors.md (the vector is named at each) or words
written out from 30_encoding.md R80 and R83, and a witness that the hypotheses of each statement can be met. -/

namespace Sys2Proof.Tests

set_option Elab.async false

open Sys2Proof Machine Claims

/-- Does the outcome go on to a state that passes the check? -/
def after (o : Host.Outcome State Fault Refusal) (check : State → Bool) : Bool :=
  match o with
  | .next t => check t
  | .fault _ => false
  | .refused _ => false

/-- The block with `CFG` set. -/
def withCfg (cfg : BitVec 8) : State := { State.reset with cfg := cfg }

/-- A channel with `GCD0` and `GCD1` set. -/
def channelWith (gcd0 : BitVec 31) (gcd1 : BitVec 28) : Channel := { Channel.reset with gcd0 := gcd0, gcd1 := gcd1 }

/-- The block with channel 0's `GCD0` and `GCD1` set. -/
def withGcd (gcd0 : BitVec 31) (gcd1 : BitVec 28) : State := { State.reset with chan0 := channelWith gcd0 gcd1 }

/-- The start state of vector HUF-1. -/
def huf1 : State := { withGcd 0x1A40100A 0x04000004 with mem := [(0x1000, 0x17#8), (0x1001, 0x00#8)], mdLen := 2 }

/-- A pure short channel, a mixed one, with `GLOBAL_GAIN` 210 (`WS_FLAG` 29, `MIXED` 30, `BLOCK_TYPE` 2). -/
def pureShortChannel : Channel := channelWith 0x3A400000 2
def mixedChannel : Channel := channelWith 0x7A400000 2

/-- The decode in progress at the end of the loops. -/
def lastRun (r : Except HuffRun HuffRun) : HuffRun :=
  match r with
  | .ok h => h
  | .error h => h

/-- Did the loops end without an invalid code? -/
def ranThrough (r : Except HuffRun HuffRun) : Bool :=
  match r with
  | .ok _ => true
  | .error _ => false

theorem lastRun_ok {r : Except HuffRun HuffRun} (h : ranThrough r = true) : r = .ok (lastRun r) := by
  cases r with
  | ok _ => rfl
  | error _ => cases h

theorem lastRun_error {r : Except HuffRun HuffRun} (h : ranThrough r = false) : r = .error (lastRun r) := by
  cases r with
  | ok _ => cases h
  | error _ => rfl

/-- Where the loops of a decode that meets no invalid code end. -/
theorem loops_of_ranThrough {s : State} {ch : Ch} (h : ranThrough (huffDecode s ch) = true) :
    HuffLoops s ch (lastRun (huffDecode s ch)) := Laws.huffLoops_of_ok (lastRun_ok h)

/-! ## Decoding: RSV (22 bits), ALL, CH, OP written out -/

theorem test_decode_nop : decode (0b0000000000000000000000#22 ++ 0b0#1 ++ 0b0#1 ++ 0b00000000#8) = .ok .nop := by rfl

theorem test_decode_clearhist :
    decode (0b0000000000000000000000#22 ++ 0b1#1 ++ 0b0#1 ++ 0b00000001#8) = .ok (.clearhist true .c0) := by rfl

theorem test_decode_huff : decode (0b0000000000000000000000#22 ++ 0b0#1 ++ 0b1#1 ++ 0b00010000#8) = .ok (.huff .c1) := by rfl

theorem test_decode_requant :
    decode (0b0000000000000000000000#22 ++ 0b0#1 ++ 0b1#1 ++ 0b00100000#8) = .ok (.requant false .c1) := by rfl

theorem test_decode_reorder :
    decode (0b0000000000000000000000#22 ++ 0b1#1 ++ 0b0#1 ++ 0b00100001#8) = .ok (.reorder true .c0) := by rfl

theorem test_decode_stereo : decode (0b0000000000000000000000#22 ++ 0b0#1 ++ 0b0#1 ++ 0b00100010#8) = .ok .stereo := by rfl

theorem test_decode_antialias :
    decode (0b0000000000000000000000#22 ++ 0b0#1 ++ 0b1#1 ++ 0b00110000#8) = .ok (.antialias false .c1) := by rfl

theorem test_decode_imdct :
    decode (0b0000000000000000000000#22 ++ 0b1#1 ++ 0b0#1 ++ 0b00110001#8) = .ok (.imdct true .c0) := by rfl

theorem test_decode_freqinv :
    decode (0b0000000000000000000000#22 ++ 0b0#1 ++ 0b1#1 ++ 0b00110010#8) = .ok (.freqinv false .c1) := by rfl

theorem test_decode_synth :
    decode (0b0000000000000000000000#22 ++ 0b1#1 ++ 0b0#1 ++ 0b01000000#8) = .ok (.synth true .c0) := by rfl

theorem test_decode_silence : decode (0b0000000000000000000000#22 ++ 0b0#1 ++ 0b0#1 ++ 0b01000001#8) = .ok .silence := by rfl

theorem test_decode_backend : decode (0b0000000000000000000000#22 ++ 0b0#1 ++ 0b0#1 ++ 0b01010000#8) = .ok .backend := by rfl

/-- Vector CT-2: the illegal words, with the clause of R82 each breaks. -/
theorem test_decode_illegal :
    decode 0x00000011 = .error .unknownOpcode ∧ decode 0x00000400 = .error .reservedBits ∧
    decode 0x00000210 = .error .huffAll ∧ decode 0x00000122 = .error .channelOperand ∧
    decode 0x00000301 = .error .allWithChannelOne := by
  refine ⟨rfl, rfl, rfl, rfl, rfl⟩

/-- WellFormed refuses `ALL` with channel 1 in every per-channel command (30_encoding.md R82). -/
theorem test_wellFormed_refuses :
    Instr.wellFormed (.clearhist true .c1) = false ∧ Instr.wellFormed (.requant true .c1) = false ∧
    Instr.wellFormed (.reorder true .c1) = false ∧ Instr.wellFormed (.antialias true .c1) = false ∧
    Instr.wellFormed (.imdct true .c1) = false ∧ Instr.wellFormed (.freqinv true .c1) = false ∧
    Instr.wellFormed (.synth true .c1) = false := by
  decide

/-! ## One command each -/

/-- Vector CT-1. -/
theorem test_nop : after (step (State.reset.withFetchWord 32 0x00)) (fun t => decide (t.status.word = 2)) = true := by
  decide

/-- R211: CLEARHIST c1 leaves channel 0's history. -/
theorem test_clearhist_other_channel :
    after (exec (.clearhist false .c1) { State.reset with chan0 := { Channel.reset with v := Vector.replicate 1024 1 } })
      (fun t => decide (look t.chan0.v 1023 0 = 1)) = true := by
  decide +kernel

/-- Vector CT-2: channel 1 of a mono stream. -/
theorem test_clearhist_mono :
    after (exec (.clearhist false .c1) (withCfg 0x30)) (fun t => decide (t.status.word = 0x44 ∧ t.errinfo = 0)) = true := by
  decide +kernel

/-- Vector HUF-1. -/
theorem test_huff_1 :
    after (exec (.huff .c0) huf1)
      (fun t => decide (t.chan0.isi.toList.take 7 = [-1, 1, 0, 0, 0, 1, 0] ∧ t.chan0.count1 = 6 ∧ t.bitpos = 10 ∧
        t.status.word = 2)) = true := by
  decide +kernel

/-- Vector HUF-5. -/
theorem test_huff_5 :
    after (exec (.huff .c0) (withGcd 0x1A401005 0x00000004))
      (fun t => decide (t.chan0.isi.toList.take 3 = [1, 1, 0] ∧ t.chan0.count1 = 2 ∧ t.bitpos = 5 ∧
        t.status.word = 0x3C ∧ t.busRead 0x00C 4 = 0x00020005)) = true := by
  decide +kernel

/-- Vector RQ-1: the exact value, which `FP` then stores. -/
theorem test_requant_1 :
    (requantFormula State.reset
      { channelWith 0x1AC00000 0 with isi := put Channel.reset.isi 0 8 } 0).exact? = some 32 := by
  decide +kernel

/-- Vector RQ-7. -/
theorem test_requant_7 :
    after (exec (.requant false .c0) { withCfg 0x0A with chan0 := mixedChannel })
      (fun t => decide (t.status.word = 0x24)) = true := by
  decide +kernel

/-- Vector RO-1, the lines numbered 0 to 11. -/
theorem test_reorder_1 :
    after (exec (.reorder false .c0)
        { State.reset with chan0 := { pureShortChannel with xr := Vector.ofFn fun i => (i.val : Rat) } })
      (fun t => decide (t.chan0.xr.toList.take 12 = [0, 4, 8, 1, 5, 9, 2, 6, 10, 3, 7, 11])) = true := by
  decide +kernel

/-- Vector ST-4's step from a line to the boundary (line 40, in band 8, gives 9), and the boundary of a right channel whose
highest nonzero line is 550, in band 21 (R147). -/
theorem test_stereo_4 :
    longBand State.reset.longTable 40 + 1 = 9 ∧
    longBoundary State.reset.longTable { Channel.reset with isi := put Channel.reset.isi 550 1 } = 22 := by
  decide +kernel

/-- Vector ST-3, the factors of `is_pos` 0, 6 and 7. -/
theorem test_stereo_3 :
    (factorsMpeg1 0).map (fun k => (k.1.exact?, k.2.exact?)) = some (some 0, some 1) ∧
    factorsMpeg1 6 = some (.rat 1, .rat 0) ∧ factorsMpeg1 7 = none := by
  decide +kernel

/-- R44 with vector RQ-7's start state: ANTIALIAS of a mixed block the 8000 Hz row cannot split. -/
theorem test_antialias_split :
    after (exec (.antialias false .c0) { withCfg 0x0A with chan0 := mixedChannel })
      (fun t => decide (t.status.word = 0x24)) = true := by
  decide +kernel

/-- Vector AA-2: in a mixed block a 1 at line 35 stays. -/
theorem test_antialias_2 : antialiasLine { mixedChannel with xr := put Channel.reset.xr 35 1 } 35 = 1 := by
  decide +kernel

/-- Vector IM-3: the start window ends in zeros. -/
theorem test_imdct_3 : (Formula.mul (longWindow 1 30) (longTransform (fun _ => 1) 30)).exact? = some 0 := by
  decide +kernel

/-- Vector FI-1. -/
theorem test_freqinv_1 :
    after (exec (.freqinv false .c0) { State.reset with chan0 := { Channel.reset with xr := Vector.replicate 576 (1 / 2) } })
      (fun t => decide (t.chan0.xrLine 19 = -1 / 2 ∧ t.chan0.xrLine 18 = 1 / 2 ∧ t.chan0.xrLine 1 = 1 / 2)) = true := by
  decide +kernel

/-- Vector SY-2. -/
theorem test_synth_2 :
    [(19 : Rat) / 10, -19 / 10, 65535 / 2, 40000, -40000, -327687 / 10].map (fun q => sat16 (truncate q)) =
      [1, -1, 32767, 32767, -32768, -32768] := by
  decide +kernel

/-- Vector CT-6. -/
theorem test_silence :
    after (exec .silence { State.reset with pcm := Vector.replicate 576 (0x1234, 0x5678) })
      (fun t => decide (t.busRead 0x2000 4 = 0 ∧ t.busRead 0x28FC 4 = 0)) = true := by
  decide +kernel

/-- R213: the first failing step ends BACKEND. -/
theorem test_backend_error :
    after (exec .backend { withCfg 0x0A with chan0 := mixedChannel }) (fun t => decide (t.status.word = 0x24)) = true := by
  decide +kernel

/-! ## The host -/

/-- Vector CT-3. -/
theorem test_acknowledge :
    decide (((failed State.reset 4 7).access (.write .word 0x004 0x4)).busRead 0x004 4 = 0 ∧
      ((failed State.reset 4 7).access (.write .word 0x004 0x4)).busRead 0x00C 4 = 0) = true := by
  decide +kernel

/-- Vector CT-4. -/
theorem test_overrun :
    after (step { State.reset.startCommand 0x50 with inbox := [.access true (.write .word 0x008 0x41)] })
      (fun t => decide (t.status.word = 0x101 ∧ t.cmd = 0x50)) = true := by
  decide +kernel

/-- Program P2: the read-back `rd 0x3000` after HUFF. -/
theorem test_readback :
    after (exec (.huff .c0) huf1)
      (fun t => decide (t.busRead 0x3000 4 = 0x0001FFFF ∧ t.busRead 0x02C 4 = 0x00060000)) = true := by
  decide +kernel

/-! ## Witnesses: the hypotheses of each statement can be met -/

/-- A write of `CMD` from reset, and no event before the command ends; the second holds an event that comes later. -/
def running (w : Word) : State := State.reset.startCommand w
def runningThenRead (w : Word) : State := { running w with inbox := [idle (.read .word 0x004)] }

theorem running_engineNext (w : Word) : EngineNext (running w) := ⟨rfl, by intro e rest h; cases h⟩

theorem runningThenRead_engineNext (w : Word) : EngineNext (runningThenRead w) := by
  refine ⟨rfl, ?_⟩
  intro e rest h
  cases h
  rfl

theorem zero_representable : representable 0 = true := rfl

theorem channel_reset_stored : Channel.reset.stored := by
  refine ⟨fun i => ?_, fun sb n => ?_, fun i => ?_⟩ <;>
    (simp only [Channel.reset, Fin.getElem_fin, Vector.getElem_replicate]; exact zero_representable)

theorem witness_ChannelSetAndLegality :
    (withCfg 0x30).chMode = 3 ∧ (withCfg 0x20).chMode ≠ 3 ∧ channelsLegal (withCfg 0x30) false .c1 = false ∧
    channelsLegal (withCfg 0x20) false .c1 = true ∧ channelsLegal (withCfg 0x20) true .c1 = false := by
  decide

theorem witness_StepRunsDecodedCommand :
    EngineNext (runningThenRead 0x50) ∧ decode (runningThenRead 0x50).cmd = .ok .backend :=
  ⟨runningThenRead_engineNext _, rfl⟩

theorem witness_IllegalWord_noCommand : EngineNext (running 0x11) ∧ Illegal (running 0x11) (running 0x11).cmd :=
  ⟨running_engineNext _, trivial⟩

theorem witness_IllegalWord_mono :
    EngineNext { running 0x110 with cfg := 0x30 } ∧ Illegal { running 0x110 with cfg := 0x30 } (running 0x110).cmd :=
  ⟨⟨rfl, by intro e rest h; cases h⟩, rfl, false, .c1, rfl, rfl, rfl⟩

theorem witness_IdleStep :
    State.reset.status.busy = false ∧ State.reset.inbox = [] ∧
    ({ State.reset with inbox := [idle (.read .byte 0x1FFF)] } : State).inbox = .access false (.read .byte 0x1FFF) :: [] ∧
    Access.legal (.read .byte 0x1FFF) = true ∧
    ({ State.reset with inbox := [.access true (.write .word 0x008 0)] } : State).inbox =
      .access true (.write .word 0x008 0) :: [] := by
  refine ⟨rfl, rfl, rfl, rfl, rfl⟩

theorem witness_CommandOverrun :
    ({ running 0x50 with inbox := [.access true (.write .word 0x008 0x41)] } : State).status.busy = true ∧
    ({ running 0x50 with inbox := [.access true (.write .word 0x008 0x41)] } : State).inbox =
      .access true (.write .word 0x008 0x41) :: [] := ⟨rfl, rfl⟩

theorem witness_BusyHazards :
    (running 0x50).status.busy = true ∧
    (Access.legal (.read .word 0x00C) = true ∧
      Access.read .word 0x00C ∈ [Access.read .word 0x000, .read .word 0x004, .read .word 0x00C]) ∧
    Access.legal (.write .word 0x004 0xE) = true ∧
    (Access.legal (.read .word 0x010) = true ∧
      Access.read .word 0x010 ∉ [Access.read .word 0x000, .read .word 0x004, .read .word 0x00C] ∧
      ∀ w, Access.read .word 0x010 ≠ .write .word 0x000 w ∧ Access.read .word 0x010 ≠ .write .word 0x004 w ∧
        Access.read .word 0x010 ≠ .write .word 0x008 w) := by
  refine ⟨rfl, ⟨rfl, by decide⟩, rfl, rfl, by decide, fun w => ⟨nofun, nofun, nofun⟩⟩

/-- The first and last offsets of the clauses of WrongWidthOrAlignmentIsRefused, with the region each is in. -/
theorem witness_WrongWidth_boundaries :
    [0x000, 0x0FF, 0x100, 0x17F, 0x180, 0xFFF, 0x1000, 0x1FFF, 0x2000, 0x28FF, 0x2900, 0x2FFF, 0x3000, 0x38FF, 0x3900,
      0xFFFF].map regionOf =
    [.regs, .regs, .sf, .sf, .reserved, .reserved, .md, .md, .pcm, .pcm, .reserved, .reserved, .isi, .isi, .reserved,
      .reserved] := by
  decide

theorem witness_StatusWriteOneToClear :
    (0x00000004#32).getLsbD 2 = true ∧ (0xFFFFFFFB#32).getLsbD 2 = false ∧ (0x0000010A#32).getLsbD 8 = true := by
  decide

theorem witness_NextState : ∃ t, exec .nop State.reset = .next t := ⟨_, rfl⟩

theorem witness_SoftReset :
    (0x2#32).getLsbD 1 = true ∧
    ({ running 0x50 with inbox := [.access true (.write .word 0x000 2)] } : State).inbox =
      .access true (.write .word 0x000 2) :: [] := ⟨rfl, rfl⟩

/-- A state that is not the reset state, meets the invariant and steps on. -/
theorem witness_StepKeepsInvariant : (running 0x00).Inv ∧ ∃ t, step (running 0x00) = .next t :=
  ⟨⟨channel_reset_stored, channel_reset_stored, rfl, by decide, rfl, fun _ => rfl⟩, _, rfl⟩

theorem witness_CommandsWriteOnlyTheirArrays :
    (∀ ch, Instr.nop ≠ .huff ch) ∧ (∀ all ch, Instr.nop ≠ .imdct all ch ∧ Instr.nop ≠ .clearhist all ch) ∧
    Instr.nop ≠ .backend ∧ Instr.nop ≠ .silence ∧ (∀ all ch, Instr.nop ≠ .synth all ch ∧ Instr.nop ≠ .clearhist all ch) ∧
    ∃ t, exec .nop State.reset = .next t :=
  ⟨nofun, fun _ _ => ⟨nofun, nofun⟩, nofun, nofun, fun _ _ => ⟨nofun, nofun⟩, _, rfl⟩

/-- The block with a command's success not yet acknowledged. -/
def withDone (cfg : BitVec 8) : State := (withCfg cfg).endDone

/-- Failures while `DONE = 1`, with ERRCODE 4 and 2. -/
theorem witness_Errors :
    Instr.requant true .c1 ≠ .backend ∧ (withDone 0x00).status.done = true ∧ Fails (.requant true .c1) (withDone 0x00) ∧
    exec (.requant true .c1) (withDone 0x00) = .next (failed (withDone 0x00) 4 0) ∧
    (failed (withDone 0x00) 4 0).status.errcode = 4 ∧
    Fails (.requant true .c0) (withDone 0x03) ∧
    exec (.requant true .c0) (withDone 0x03) = .next (failed (withDone 0x03) 2 0) ∧
    (failed (withDone 0x03) 2 0).status.errcode = 2 :=
  ⟨nofun, rfl, ⟨_, rfl, rfl⟩, rfl, rfl, ⟨_, rfl, rfl⟩, rfl, rfl⟩

theorem witness_ResetValues_hardReset :
    ({ running 0x50 with inbox := [.hardReset] } : State).inbox = .hardReset :: [] := rfl

/-- The last written byte of an SF RAM and its first reserved one, and a value of ERRINFO. -/
theorem witness_RegisterWrites :
    accessOk .byte 0x139 = true ∧ 0x139 % 0x40 < 58 ∧ accessOk .half 0x17E = true ∧ accessOk .word 0x100 = true ∧
    (running 0x50).status.busy = true ∧ State.reset.status.busy = false ∧ State.reset.errinfo = errInfo 0 false 0 := by
  refine ⟨rfl, by decide, rfl, rfl, rfl, rfl, rfl⟩

/-- A state that differs from reset in `V` only. -/
def otherHistory : State := { State.reset with chan0 := { Channel.reset with v := Vector.replicate 1024 1 } }

theorem witness_HiddenArrays :
    hide State.reset = hide otherHistory ∧ look State.reset.chan0.v 0 0 ≠ look otherHistory.chan0.v 0 0 ∧
    hostAccess (.read .word 0x004) State.reset = .next (State.reset.access (.read .word 0x004)) ∧
    hostAccess (.read .half 0x001) State.reset = .refused .badAccess ∧
    (∃ t, exec .silence State.reset = .next t) ∧ ∃ t, exec .silence otherHistory = .next t := by
  refine ⟨rfl, by decide +kernel, rfl, rfl, ⟨_, rfl⟩, _, rfl⟩

theorem witness_HostReads : accessOk .word 0x000 = true ∧ accessOk .byte 0x1FFF = true ∧ accessOk .half 0x38FE = true := by
  decide

/-- The first and last registers without an effect, and the ends of the reserved ranges. -/
theorem witness_RegisterFrames :
    (0x010 : Offset) ∈ plainRegisters ∧ (0x04C : Offset) ∈ plainRegisters ∧
    (accessOk .word 0x01C = true ∧ reservedOffset (0x01C#16).toNat) ∧
    (accessOk .word 0x0FC = true ∧ reservedOffset (0x0FC#16).toNat) ∧
    (accessOk .byte 0x180 = true ∧ reservedOffset (0x180#16).toNat) ∧
    (accessOk .half 0x2FFE = true ∧ reservedOffset (0x2FFE#16).toNat) ∧
    (accessOk .word 0xFFFC = true ∧ reservedOffset (0xFFFC#16).toNat) := by
  unfold reservedOffset
  decide

theorem witness_SpectrumWindow_words :
    (0x3000#16).toNat = 0x3000 + 0x480 * (if Ch.c0 = .c1 then 1 else 0) + 4 * (0 : Fin 288).val ∧
    (0x38FC#16).toNat = 0x3000 + 0x480 * (if Ch.c1 = .c1 then 1 else 0) + 4 * (287 : Fin 288).val := by
  decide

theorem witness_MainDataWrites :
    accessOk .byte 0x1FFF = true ∧ accessOk .word 0x1FFC = true ∧ accessOk .half 0x1000 = true := by
  decide

theorem witness_SpectrumWindow :
    (0x3000#16).toNat = 0x3000 + 0x480 * (if Ch.c0 = .c1 then 1 else 0) + 2 * (0 : Fin 576).val ∧
    (0x38FE#16).toNat = 0x3000 + 0x480 * (if Ch.c1 = .c1 then 1 else 0) + 2 * (575 : Fin 576).val := by
  decide

theorem witness_PcmLayout :
    accessOk .half 0x28FE = true ∧ pcmBytes (0x28FE#16).toNat ∧ accessOk .word 0x2000 = true ∧
    pcmBytes (0x2000#16).toNat := by
  refine ⟨rfl, by unfold pcmBytes; decide, rfl, by unfold pcmBytes; decide⟩

theorem witness_NopWords :
    EngineNext (running 0x00000100) ∧ (running 0x00000100).cmd.extractLsb' 0 8 = 0x00 ∧
    (running 0x00000100).cmd.extractLsb' 8 24 ≠ 0 :=
  ⟨running_engineNext _, rfl, by decide⟩

theorem witness_SilenceWords :
    EngineNext (running 0x80000041) ∧ (running 0x80000041).cmd.extractLsb' 0 8 = 0x41 ∧
    (running 0x80000041).cmd.extractLsb' 8 24 ≠ 0 :=
  ⟨running_engineNext _, rfl, by decide⟩

theorem witness_ClearhistIllegal :
    channelsLegal (withCfg 0x30) false .c1 = false ∧ channelsLegal State.reset true .c1 = false := by
  decide

/-- The operand of a per-channel command is legal: one channel, and all of them, in stereo and mono. It serves
ClearhistResult, AntialiasResult, ImdctResult, FreqinvResult, SynthResult. -/
theorem witness_channelsLegal :
    channelsLegal State.reset false .c1 = true ∧ channelsLegal State.reset true .c0 = true ∧
    channelsLegal (withCfg 0x30) true .c0 = true ∧ (withCfg 0x30).chMode = 3 ∧ Ch.c0 ∈ chans State.reset true .c0 ∧
    Ch.c1 ∉ chans State.reset false .c0 := by
  decide

/-- The mixed block of the 44100 Hz row can be split, and a long or pure short block needs no split: the hypotheses of
AntialiasResult, ImdctResult and the HUFF statements beside witness_channelsLegal. -/
theorem witness_BlocksOk :
    BlocksOk { State.reset with chan0 := mixedChannel } [.c0, .c1] ∧ BlocksOk (withCfg 0x03) [.c0, .c1] ∧
    SplitsOk huf1 [.c0] ∧ SplitsOk (withGcd 0x1A401005 4) [.c0] ∧ SplitsOk (withGcd 0x1A401005 0x10) [.c0] := by
  refine ⟨fun c _ _ => ⟨by decide +kernel, by decide +kernel⟩, fun c _ h => ?_, fun c hc h => ?_, fun c hc h => ?_,
    fun c hc h => ?_⟩
  · cases c <;> cases h
  all_goals
    cases List.mem_singleton.mp hc
    cases h

theorem witness_BitReader_clauses :
    0 / 8 < huf1.mdLen.toNat ∧ 15 / 8 < huf1.mdLen.toNat ∧ huf1.mdLen.toNat ≤ 16 / 8 ∧
    huf1.stringBit 3 = true ∧ huf1.stringBit 2 = false ∧ huf1.stringBit 16 = false := by
  decide +kernel

/-- The code `0001` of HUF-1's first four bits, from a table that holds it. -/
theorem witness_DecodeCode :
    [([false, false, false, true], 7)].lookup [false, false, false, true] = some 7 ∧
    (∀ n, n < 4 → 0 < n → [([false, false, false, true], 7)].lookup ([false, false, false, true].take n) = none) ∧
    (∀ k, k < 4 → huf1.stringBit (0 + k) = [false, false, false, true].getD k false ∧ (0 + k) / 8 < huf1.mdLen.toNat) := by
  decide +kernel

/-- No prefix up to MAXLEN is a codeword, and a bit out of bounds. -/
theorem witness_DecodeCode_none :
    maxLen [([true, true], 7)] = 2 ∧
    (∀ n, n < 3 → 0 < n → [([true, true], 7)].lookup (bitsRead huf1 { bitpos := 0, oob := false } n) = none) ∧
    bitsRead huf1 { bitpos := 3, oob := false } 3 = [true, false, true] ∧
    State.reset.mdLen.toNat ≤ (0 : BitVec 15).toNat / 8 := by
  decide +kernel

theorem witness_DecodedPairs (r : Reader) : decodePair State.reset 0 r = (some (0, 0), r) := rfl

/-- HUF-1's pair: `000` of table 1 (DecodeCodeReadsCodeword on a pair table, and the assembly of DecodedPairsFitS16). -/
theorem witness_DecodedPairs_code :
    (pairTable 1).lookup [false, false, false] = some (1, 1) ∧
    decodeCode huf1 (pairTable 1) (maxLen (pairTable 1)) [] { bitpos := 0, oob := false } =
      (some (1, 1), { bitpos := 3, oob := false }) ∧
    decodePair huf1 1 { bitpos := 0, oob := false } = (some (-1, 1), { bitpos := 5, oob := false }) := by
  decide +kernel

theorem witness_HuffResult :
    channelsLegal huf1 false .c0 = true ∧ (huf1.chan .c0).bigValues ≤ 288 ∧ huf1.tablesOk = true ∧
    HuffLoops huf1 .c0 (lastRun (huffDecode huf1 .c0)) ∧ (lastRun (huffDecode huf1 .c0)).rd.oob = false := by
  refine ⟨by decide +kernel, by decide +kernel, by decide +kernel, loops_of_ranThrough (by decide +kernel),
    by decide +kernel⟩

/-- 288 big values, from table 0, and an empty region at bit 32767: both at the end of their range. -/
def fullRegion : State :=
  { State.reset with
    bitpos := 32767
    chan0 := { Channel.reset with gcd0 := 0x120000, part2Start := 32767 } }

theorem witness_HuffResult_boundary :
    (fullRegion.chan .c0).bigValues = 288 ∧ HuffLoops fullRegion .c0 (lastRun (huffDecode fullRegion .c0)) ∧
    (lastRun (huffDecode fullRegion .c0)).rd.oob = false ∧
    (fullRegion.chan .c0).part2Start.toNat + (fullRegion.chan .c0).part23Len = 32767 := by
  refine ⟨by decide +kernel, loops_of_ranThrough (by decide +kernel), by decide +kernel, by decide +kernel⟩

/-- A region that ends one bit past the cursor's range, and no read out of bounds (log 12). -/
def wrappingRegion : State :=
  { State.reset with
    bitpos := 32767
    chan0 := { Channel.reset with gcd0 := 0x120001, part2Start := 32767 } }

theorem witness_HuffResult_wrap :
    (wrappingRegion.chan .c0).bigValues ≤ 288 ∧
    HuffLoops wrappingRegion .c0 (lastRun (huffDecode wrappingRegion .c0)) ∧
    (lastRun (huffDecode wrappingRegion .c0)).rd.oob = false ∧
    (wrappingRegion.chan .c0).part2Start.toNat + (wrappingRegion.chan .c0).part23Len = 32768 := by
  refine ⟨by decide +kernel, loops_of_ranThrough (by decide +kernel), by decide +kernel, by decide +kernel⟩

theorem witness_HuffEmptyRegion :
    channelsLegal fullRegion false .c0 = true ∧ (fullRegion.chan .c0).bigValues ≤ 288 ∧ fullRegion.tablesOk = true ∧
    (fullRegion.chan .c0).part23Len = 0 ∧ (fullRegion.chan .c0).tsel0 = 0 ∧ (fullRegion.chan .c0).tsel1 = 0 ∧
    (fullRegion.chan .c0).tsel2 = 0 ∧ fullRegion.bitpos = (fullRegion.chan .c0).part2Start := by
  decide +kernel

/-- Vector HUF-5 reads out of bounds. -/
theorem witness_HuffUnexpectedEof_read :
    channelsLegal (withGcd 0x1A401005 4) false .c0 = true ∧ ((withGcd 0x1A401005 4).chan .c0).bigValues ≤ 288 ∧
    (withGcd 0x1A401005 4).tablesOk = true ∧
    HuffLoops (withGcd 0x1A401005 4) .c0 (lastRun (huffDecode (withGcd 0x1A401005 4) .c0)) ∧
    (lastRun (huffDecode (withGcd 0x1A401005 4) .c0)).rd.oob = true := by
  refine ⟨by decide +kernel, by decide +kernel, by decide +kernel, loops_of_ranThrough (by decide +kernel),
    by decide +kernel⟩

/-- One pair of table 1, its codeword `1` the last bit of a full main-data RAM: in bounds, and the advance wraps the cursor
(20_memory.md R64). -/
def lastBit : State :=
  { withGcd 0x1A401000 0x00000004 with mem := [(0x1FFF, 0x01#8)], mdLen := 4096, bitpos := 32767 }

theorem witness_HuffUnexpectedEof_wrap :
    HuffLoops lastBit .c0 (lastRun (huffDecode lastBit .c0)) ∧ (lastRun (huffDecode lastBit .c0)).rd.oob = true ∧
    (lastRun (huffDecode lastBit .c0)).rd.bitpos = 0 := by
  refine ⟨loops_of_ranThrough (by decide +kernel), by decide +kernel, by decide +kernel⟩

/-- Vector HUF-7. -/
theorem witness_HuffInvalidCode :
    channelsLegal (withGcd 0x1A401005 0x10) false .c0 = true ∧ ((withGcd 0x1A401005 0x10).chan .c0).bigValues ≤ 288 ∧
    (withGcd 0x1A401005 0x10).tablesOk = true ∧
    HuffBreaks (withGcd 0x1A401005 0x10) .c0
      (lastRun (pairsLoop (withGcd 0x1A401005 0x10) (channelWith 0x1A401005 0x10) 1
        (huffStart (withGcd 0x1A401005 0x10) .c0))) := by
  refine ⟨by decide +kernel, by decide +kernel, by decide +kernel,
    Laws.huffBreaks_of_pair (lastRun_error (by decide +kernel))⟩

theorem witness_HuffTooManyBigValues :
    channelsLegal (withGcd 0x00121000 0) false .c0 = true ∧ ((withGcd 0x00121000 0).chan .c0).bigValues = 289 := by
  decide

theorem witness_ReservedTableRows :
    (withCfg 0x03).tablesOk = false ∧ (withCfg 0x0C).tablesOk = false ∧ (withCfg 0x0A).tablesOk = true ∧
    channelsLegal (withCfg 0x03) true .c0 = true ∧ ((withCfg 0x13).tablesOk = false ∧ (withCfg 0x13).chMode = 1) ∧
    ({ withCfg 0x0A with chan0 := mixedChannel } : State).chan0.mixed = true ∧
    ({ withCfg 0x0A with chan0 := mixedChannel } : State).splitOk = false ∧
    ({ withCfg 0x1A with chan1 := mixedChannel } : State).chMode = 1 ∧
    ({ withCfg 0x1A with chan1 := mixedChannel } : State).tablesOk = true ∧
    ({ withCfg 0x1A with chan1 := mixedChannel } : State).splitOk = false ∧
    ({ withCfg 0x1A with chan1 := mixedChannel } : State).chan0.mixed = false ∧
    ({ withCfg 0x1A with chan1 := mixedChannel } : State).chan1.mixed = true := by
  decide +kernel

/-- The hypotheses of RequantResult and ReorderResult, on a mixed block that can be split. -/
theorem witness_Requant :
    channelsLegal { State.reset with chan0 := mixedChannel } true .c0 = true ∧
    ({ State.reset with chan0 := mixedChannel } : State).tablesOk = true ∧
    SplitsOk { State.reset with chan0 := mixedChannel } (chans { State.reset with chan0 := mixedChannel } true .c0) := by
  refine ⟨by decide +kernel, by decide +kernel, fun _ _ _ => by decide +kernel⟩

theorem witness_RequantLongLine :
    State.reset.tablesOk = true ∧ Channel.reset.lineShort 0 = false ∧ entry State.reset.longTable 0 = 0 ∧
    0 < entry State.reset.longTable 1 ∧ Channel.reset.lineShort 575 = false ∧ entry State.reset.longTable 21 ≤ 575 ∧
    575 < entry State.reset.longTable 22 := by
  decide +kernel

/-- Line 0, and line 575: band 12, window 2, its last line. -/
theorem witness_RequantShortLine :
    pureShortChannel.lineShort 0 = true ∧ 0 < entry State.reset.shortTable 1 - entry State.reset.shortTable 0 ∧
    pureShortChannel.lineShort 575 = true ∧ 55 < entry State.reset.shortTable 13 - entry State.reset.shortTable 12 ∧
    3 * entry State.reset.shortTable 12 + 2 * (entry State.reset.shortTable 13 - entry State.reset.shortTable 12) + 55 =
      575 := by
  decide +kernel

/-- An all-zero spectrum has no nonzero line. -/
theorem isiLine_of_zero {c : Channel} (h : c.isi = Vector.replicate 576 0) (j : Nat) : c.isiLine j = 0 := by
  simp only [Channel.isiLine, h, look]
  split <;> simp

/-- With it every long band is a candidate (R147). -/
theorem longBoundary_of_zero {c : Channel} (L : List Nat) (h : c.isi = Vector.replicate 576 0) : longBoundary L c = 0 := by
  unfold longBoundary
  rw [List.find?_eq_none.mpr fun i _ => by rw [isiLine_of_zero h i]; decide]

/-- An all-zero long right channel (vector ST-3): line `i` takes the position of its band. -/
theorem intensityLine_of_zero (s : State) (i : Nat) (h0 : s.chan1.isi = Vector.replicate 576 0)
    (hw : s.chan1.wsFlag = false) :
    intensityLine s i = intensityFactors s (longPosition s (longBand s.longTable i)) := by
  have h : s.chan1.short = false := by simp [Channel.short, hw]
  have h2 : s.chan1.lineShort i = false := by simp [Channel.lineShort, Channel.pureShort, Channel.mixed, h]
  simp [intensityLine, longBoundary_of_zero _ h0, h2, h]

theorem witness_Stereo :
    (withCfg 0x80).chMode ≠ 1 ∧ (withCfg 0xD0).chMode = 1 ∧ (withCfg 0xD0).tablesOk = true ∧ (withCfg 0xD0).isOn = true ∧
    (withCfg 0xD0).msOn = true ∧ (withCfg 0x50).msOn = false ∧ SplitsOk (withCfg 0xD0) [.c0, .c1] := by
  refine ⟨by decide, by decide, by decide, by decide, by decide, by decide, fun c _ h => ?_⟩
  cases c <;> cases h

/-- The last line of the reset spectrum is in an intensity band of position 0. -/
theorem witness_Stereo_intensity :
    intensityLine (withCfg 0xD0) 575 =
      some (.div (.tanPi 0) (.add (.rat 1) (.tanPi 0)), .div (.rat 1) (.add (.rat 1) (.tanPi 0))) := by
  rw [intensityLine_of_zero (withCfg 0xD0) 575 rfl rfl]
  decide +kernel

/-- Every position 7. -/
def illegalPosition : State := { withCfg 0xD0 with chan1 := { Channel.reset with sf := Vector.replicate 58 7 } }

theorem witness_Stereo_illegal : intensityLine illegalPosition 0 = none := by
  rw [intensityLine_of_zero illegalPosition 0 rfl rfl]
  decide +kernel

theorem witness_IntensityFactors :
    (withCfg 0x00).version = 0 ∧ (withCfg 0x01).version ≠ 0 ∧ (withCfg 0x02).version ≠ 0 ∧
    intensityFactors (withCfg 0x00) (7, false) = none ∧ intensityFactors (withCfg 0x01) (0, true) = none := by
  decide +kernel

theorem witness_IntensityRegion_long :
    ({ State.reset with chan1 := { Channel.reset with isi := put Channel.reset.isi 40 1 } } : State).chan1.short = false ∧
    entry State.reset.longTable 8 ≤ 40 ∧ 40 < entry State.reset.longTable 9 ∧
    Channel.isiLine { Channel.reset with isi := put Channel.reset.isi 40 1 } 40 ≠ 0 := by
  decide +kernel

theorem witness_IntensityRegion_long_empty (j : Nat) : State.reset.chan1.isiLine j = 0 := isiLine_of_zero rfl j

theorem witness_IntensityRegion_short :
    ({ State.reset with chan1 := pureShortChannel } : State).chan1.pureShort = true ∧
    0 < shortWidth State.reset.shortTable 0 ∧ 55 < shortWidth State.reset.shortTable 12 ∧
    ({ State.reset with chan1 := mixedChannel } : State).chan1.short = true ∧
    ({ State.reset with chan1 := mixedChannel } : State).chan1.mixed = true ∧
    ({ State.reset with chan1 := mixedChannel } : State).splitOk = true ∧ 0 < shortWidth State.reset.shortTable 3 := by
  decide +kernel

/-- The last butterfly of a long block, and the bounds of the mixed and pure short blocks. -/
theorem witness_Antialias :
    Channel.reset.short = false ∧ (mixedChannel.short = true ∧ mixedChannel.mixed = true) ∧
    (pureShortChannel.short = true ∧ pureShortChannel.mixed = false) ∧ 18 * 31 + 7 < 576 ∧
    antialiasLine Channel.reset 8 = 0 := by
  decide +kernel

theorem witness_ImdctOfZeroInput :
    channelsLegal State.reset false .c0 = true ∧ (State.reset.chan .c0).stored ∧
    ∀ i : Fin 576, (State.reset.chan .c0).xr[i] = 0 :=
  ⟨rfl, channel_reset_stored, fun i => by simp [State.reset, State.chan, Channel.reset]⟩

theorem witness_ShortBlocks :
    channelsLegal { State.reset with chan0 := pureShortChannel } false .c0 = true ∧
    (({ State.reset with chan0 := pureShortChannel } : State).chan .c0).short = true ∧
    (({ State.reset with chan0 := pureShortChannel } : State).chan .c0).mixed = false ∧
    ∃ t, exec (.imdct false .c0) { State.reset with chan0 := pureShortChannel } = .next t :=
  ⟨rfl, rfl, rfl, _, rfl⟩

theorem witness_SynthOfSilence :
    channelsLegal State.reset false .c0 = true ∧ (∀ i : Fin 576, (State.reset.chan .c0).xr[i] = 0) ∧
    ∀ i : Fin 1024, (State.reset.chan .c0).v[i] = 0 :=
  ⟨rfl, fun i => by simp [State.reset, State.chan, Channel.reset], fun i => by
    simp [State.reset, State.chan, Channel.reset]⟩

theorem witness_BackendRunsItsSteps : State.reset.tablesOk = true ∧ SplitsOk State.reset State.reset.channels :=
  ⟨rfl, fun c _ h => by cases c <;> cases h⟩

theorem witness_BackendKeepsEarlierSteps :
    ({ withCfg 0x0A with chan1 := mixedChannel } : State).tablesOk = true ∧
    ({ withCfg 0x0A with chan1 := mixedChannel } : State).chMode ≠ 3 ∧
    ({ withCfg 0x0A with chan1 := mixedChannel } : State).chan0.mixed = false ∧
    ({ withCfg 0x0A with chan1 := mixedChannel } : State).chan1.mixed = true ∧
    ({ withCfg 0x0A with chan1 := mixedChannel } : State).splitOk = false := by
  decide +kernel

end Sys2Proof.Tests
end

/-! ## The step keeps the invariant

What a state holds of the invariant is a small part of it (`State.held`); an update that leaves this part alone keeps the
invariant. What is left are the writes of the number arrays, of the main data, of `MD_LEN`, and the ends of a command. -/

namespace Sys2Proof.Machine

/-! ### Arrays of numbers of the format -/

/-- Every element of the array is a number of the format `FP` (10_state.md R38). -/
def InFormat {n : Nat} (v : Vector Rat n) : Prop := ∀ i : Fin n, representable v[i] = true

theorem inFormat_ofFn {n : Nat} {f : Fin n → Rat} (h : ∀ i, representable (f i) = true) : InFormat (Vector.ofFn f) :=
  fun i => by simpa using h i

theorem inFormat_replicate_zero (n : Nat) : InFormat (Vector.replicate n 0) := fun i => by simp

theorem InFormat.look {n : Nat} {v : Vector Rat n} (h : InFormat v) (i : Nat) : representable (look v i 0) = true := by
  by_cases hi : i < n
  · rw [look_lt v 0 hi]
    exact h ⟨i, hi⟩
  · rw [look_ge v 0 (Nat.not_lt.mp hi)]
    exact representable_zero

/-! ### Channels whose stored values are numbers of the format -/

theorem Channel.stored_iff {c : Channel} :
    c.stored ↔ InFormat c.xr ∧ (∀ sb : Fin 32, InFormat c.prev[sb]) ∧ InFormat c.v := Iff.rfl

namespace Channel.stored

variable {c : Channel}

theorem xr (h : c.stored) : InFormat c.xr := (stored_iff.mp h).1

theorem prev (h : c.stored) (sb : Fin 32) : InFormat c.prev[sb] := (stored_iff.mp h).2.1 sb

theorem v (h : c.stored) : InFormat c.v := (stored_iff.mp h).2.2

theorem withV (h : c.stored) {w : Vector Rat 1024} (hw : InFormat w) : { c with v := w }.stored :=
  stored_iff.mpr ⟨h.xr, h.prev, hw⟩

theorem xrLine (h : c.stored) (i : Nat) : representable (c.xrLine i) = true := h.xr.look i

theorem prevAt (h : c.stored) (sb n : Nat) : representable (c.prevAt sb n) = true := by
  unfold Channel.prevAt
  by_cases hsb : sb < 32
  · rw [look_lt _ _ hsb]
    exact (h.prev ⟨sb, hsb⟩).look n
  · rw [look_ge _ _ (Nat.not_lt.mp hsb)]
    exact (inFormat_replicate_zero 18).look n

end Channel.stored

theorem channelReset_stored : Channel.reset.stored :=
  Channel.stored_iff.mpr
    ⟨inFormat_replicate_zero 576, fun sb => by simpa [Channel.reset] using inFormat_replicate_zero 18,
      inFormat_replicate_zero 1024⟩

/-! ### The part of a state the invariant speaks of -/

/-- The `FP` values of a channel (10_state.md R38 to R40). -/
def Channel.numbers (c : Channel) : Vector Rat 576 × Vector (Vector Rat 18) 32 × Vector Rat 1024 := (c.xr, c.prev, c.v)

/-- The part of a state the invariant speaks of. -/
def State.held (s : State) :=
  (s.chan0.numbers, s.chan1.numbers, s.mem, s.mdLen, s.status.err, s.status.errcode, s.errinfo)

theorem Channel.stored.of_numbers_eq {c d : Channel} (h : c.stored) (e : d.numbers = c.numbers) : d.stored := by
  simp only [Channel.numbers, Prod.mk.injEq] at e
  obtain ⟨hxr, hprev, hv⟩ := e
  rw [Channel.stored_iff, hxr, hprev, hv]
  exact h

/-- A write of a channel that leaves its numbers alone. -/
theorem State.setChan_held {s : State} {ch : Ch} {c : Channel} (e : c.numbers = (s.chan ch).numbers) :
    (s.setChan ch c).held = s.held := by
  cases ch <;> simp_all [State.held]

theorem ErrCode.code_bounds (k : ErrCode) : 1 ≤ k.code.toNat ∧ k.code.toNat ≤ 4 := by
  cases k <;> decide

theorem clampMdLen_le (w : Word) : (clampMdLen w).toNat ≤ mdBytes := by
  unfold clampMdLen
  split
  · decide
  · omega

namespace State.Inv

variable {s t : State}

/-- The invariant holds of every state that agrees with one that meets it on what it speaks of. -/
theorem of_held_eq (h : s.Inv) (e : t.held = s.held) : t.Inv := by
  simp only [held, Prod.mk.injEq] at e
  obtain ⟨h0, h1, hmem, hlen, herr, hcode, hinfo⟩ := e
  exact
    { stored0 := h.stored0.of_numbers_eq h0
      stored1 := h.stored1.of_numbers_eq h1
      memory := hmem ▸ h.memory
      mdLen := hlen ▸ h.mdLen
      errorCode := by
        rw [Status.errorCodeOk, herr, hcode]
        exact h.errorCode
      errorInfo := by
        rw [herr, hinfo]
        exact h.errorInfo }

theorem chan (h : s.Inv) (ch : Ch) : (s.chan ch).stored := by
  cases ch
  · exact h.stored0
  · exact h.stored1

theorem setChan (h : s.Inv) (ch : Ch) {c : Channel} (hc : c.stored) : (s.setChan ch c).Inv := by
  cases ch
  · exact { h with stored0 := hc }
  · exact { h with stored1 := hc }

theorem setXr (h : s.Inv) (ch : Ch) {x : Vector Rat 576} (hx : InFormat x) : (s.setXr ch x).Inv :=
  h.setChan ch (Channel.stored_iff.mpr ⟨hx, (h.chan ch).prev, (h.chan ch).v⟩)

theorem endDone (h : s.Inv) : s.endDone.Inv := h.of_held_eq rfl

theorem endError (h : s.Inv) (e : CmdError) : (s.endError e).Inv :=
  { h with
    errorCode := e.kind.code_bounds
    errorInfo := nofun }

theorem ackError (h : s.Inv) : s.ackError.Inv :=
  { h with
    errorCode := rfl
    errorInfo := fun _ => rfl }

theorem softReset (h : s.Inv) : s.softReset.Inv :=
  { stored0 := channelReset_stored
    stored1 := channelReset_stored
    memory := h.memory
    mdLen := Nat.zero_le _
    errorCode := rfl
    errorInfo := fun _ => rfl }

end State.Inv

/-- The state after a hardware reset meets the invariant, whatever the state before it. -/
theorem State.hardReset_inv (s : State) : s.hardReset.Inv :=
  { stored0 := channelReset_stored
    stored1 := channelReset_stored
    memory := State.reset_memory_wf
    mdLen := Nat.zero_le _
    errorCode := rfl
    errorInfo := fun _ => rfl }

/-! ### Host events -/

/-- The main-data window of the address map (20_memory.md R70). -/
theorem bounds_of_regionOf_md {a : Nat} (h : regionOf a = .md) : 0x1000 ≤ a ∧ a < 0x1000 + mdBytes := by
  unfold regionOf at h
  split_ifs at h with _ _ hmd
  exact hmd

namespace State.Inv

variable {s : State}

theorem writeCtrl (h : s.Inv) (w : Word) : (s.writeCtrl w).Inv := by
  unfold State.writeCtrl
  split
  · exact h.softReset
  · exact h.of_held_eq rfl

theorem writeStatus (h : s.Inv) (w : Word) : (s.writeStatus w).Inv := by
  have acked : (if w.getLsbD 2 then s.ackError else s).Inv := by
    split
    · exact h.ackError
    · exact h
  exact acked.of_held_eq rfl

/-- Only the registers `CTRL`, `STATUS` and `MD_LEN` hold something the invariant speaks of. -/
theorem writeReg (h : s.Inv) (a : Nat) (w : Word) : (s.writeReg a w).Inv := by
  unfold State.writeReg
  split
  case h_1 => exact h.writeCtrl w
  case h_2 => exact h.writeStatus w
  case h_3 => split <;> exact h.of_held_eq rfl
  case h_5 => exact { h with mdLen := clampMdLen_le w }
  all_goals exact h.of_held_eq rfl

theorem writeByte (h : s.Inv) (a : Nat) (b : Byte) : (s.writeByte a b).Inv := by
  unfold State.writeByte
  split
  next => exact h.of_held_eq (State.setChan_held (by simp only [Channel.numbers]))
  next hmd =>
    obtain ⟨hlo, hhi⟩ := bounds_of_regionOf_md hmd
    exact { h with memory := Memory.wf_insert h.memory hlo hhi b }
  next => exact h.of_held_eq (State.setChan_held (by simp only [Channel.numbers]))
  all_goals exact h

theorem writeBytes (h : s.Inv) (a n : Nat) (w : Word) : (s.writeBytes a n w).Inv :=
  List.foldlRecOn (motive := State.Inv) _ _ h fun _ hs k _ => hs.writeByte (a + k) (byteOf w k)

theorem access (h : s.Inv) (a : Access) : (s.access a).Inv := by
  cases a with
  | read w off => exact h.of_held_eq rfl
  | write w off val =>
    simp only [State.access, State.busWrite]
    split
    · exact h.writeReg _ val
    all_goals exact h.writeBytes _ _ val

end State.Inv

/-- A host access that is not refused has the access's effect. -/
theorem hostAccess_next {a : Access} {s t : State} (ht : hostAccess a s = .next t) : t = s.access a := by
  unfold hostAccess at ht
  split_ifs at ht
  exact (Host.Outcome.next.inj ht).symm

theorem hostEvent_keeps_inv {e : HostEvent} {s t : State} (h : s.Inv) (ht : hostEvent e s = .next t) : t.Inv := by
  cases e with
  | access whileBusy a => exact hostAccess_next ht ▸ h.access a
  | hardReset => exact Host.Outcome.next.inj ht ▸ s.hardReset_inv

/-! ### Commands: the state a body leaves -/

/-- The state in which a command's body ends, with or without an error. -/
def CmdResult.left : CmdResult → State
  | .ok s => s
  | .err _ s => s

/-- The body of a command: what happens before its end (10_state.md R57). -/
def commandBody (i : Instr) (s : State) : CmdResult :=
  match i with
  | .nop => .ok s
  | .clearhist all ch => perChannel noCheck clearhistEffect all ch s
  | .huff ch => if channelsLegal s false ch then huffBody s ch else .err illegalCommand s
  | .requant all ch => perChannel requantCheck requantEffect all ch s
  | .reorder all ch => perChannel reorderCheck reorderEffect all ch s
  | .stereo => stereoBody s
  | .antialias all ch => perChannel splitCheck antialiasEffect all ch s
  | .imdct all ch => perChannel splitCheck imdctEffect all ch s
  | .freqinv all ch => perChannel noCheck freqinvEffect all ch s
  | .synth all ch => perChannel noCheck synthEffect all ch s
  | .silence => .ok { s with pcm := Vector.replicate 576 (0, 0) }
  | .backend => backendBody s

/-- Every command is its body and then its end. -/
theorem exec_eq_finish (i : Instr) (s : State) : exec i s = finish (commandBody i s) := by
  cases i <;> rfl

theorem finish_keeps_inv {r : CmdResult} {t : State} (h : r.left.Inv) (ht : finish r = .next t) : t.Inv := by
  obtain ⟨u, rfl, rfl⟩ | ⟨e, u, rfl, rfl⟩ := finish_next ht
  · exact State.Inv.endDone h
  · exact State.Inv.endError h e

theorem andThen_keeps_inv {r : CmdResult} {f : State → CmdResult} (hr : r.left.Inv)
    (hf : ∀ s : State, s.Inv → (f s).left.Inv) : (r.andThen f).left.Inv := by
  cases r with
  | ok s => exact hf s hr
  | err e s => exact hr

/-- An effect on one channel that keeps the invariant. -/
def KeepsInv (effect : State → Ch → State) : Prop := ∀ s ch, State.Inv s → (effect s ch).Inv

theorem KeepsInv.perChannel {effect : State → Ch → State} (he : KeepsInv effect)
    (check : State → Ch → Option CmdError) (all : Bool) (ch : Ch) {s : State} (h : s.Inv) :
    (perChannel check effect all ch s).left.Inv := by
  obtain ⟨-, hr⟩ | ⟨-, e, -, hr⟩ | ⟨-, -, hr⟩ := perChannel_cases check effect all ch s
  · exact hr ▸ h
  · exact hr ▸ h
  · exact hr ▸ foldl_keeps he _ h

theorem KeepsInv.oneChannel {effect : State → Ch → State} (he : KeepsInv effect)
    (check : State → Ch → Option CmdError) (ch : Ch) (s : State) (h : s.Inv) :
    (oneChannel check effect ch s).left.Inv := by
  obtain ⟨e, -, hr⟩ | ⟨-, hr⟩ := oneChannel_cases check effect ch s
  · exact hr ▸ h
  · exact hr ▸ he s ch h

/-! ### The commands' effects -/

theorem clearhistEffect_keeps_inv : KeepsInv clearhistEffect := fun _ ch h =>
  h.setChan ch (Channel.stored_iff.mpr
    ⟨(h.chan ch).xr, channelReset_stored.prev, channelReset_stored.v⟩)

theorem requantEffect_keeps_inv : KeepsInv requantEffect := fun _ ch h =>
  h.setXr ch (inFormat_ofFn fun _ => representable_fp _)

theorem reorderEffect_keeps_inv : KeepsInv reorderEffect := fun _ ch h => by
  refine h.setXr ch (inFormat_ofFn fun i => ?_)
  split
  · exact (h.chan ch).xrLine _
  · exact (h.chan ch).xr i

theorem antialiasLine_representable {c : Channel} (h : c.stored) (i : Nat) : representable (antialiasLine c i) = true := by
  simp only [antialiasLine]
  split_ifs
  · exact representable_fp _
  · exact representable_fp _
  · exact h.xrLine i

theorem antialiasEffect_keeps_inv : KeepsInv antialiasEffect := fun _ ch h =>
  h.setXr ch (inFormat_ofFn fun i => antialiasLine_representable (h.chan ch) i)

theorem shortAccumulate_representable (x : Nat → Rat) (i : Nat) {y : Rat} (hy : representable y = true) (w : Nat) :
    representable (shortAccumulate x i y w) = true := by
  simp only [shortAccumulate]
  split_ifs
  · exact representable_fp _
  · exact hy

theorem shortOutput_representable (x : Nat → Rat) (i : Nat) : representable (shortOutput x i) = true :=
  List.foldlRecOn (motive := fun y => representable y = true) _ _ representable_zero
    fun _ hy w _ => shortAccumulate_representable x i hy w

theorem imdctOutput_representable (c : Channel) (sb i : Nat) : representable (imdctOutput c sb i) = true := by
  simp only [imdctOutput]
  split_ifs
  · exact shortOutput_representable _ i
  · exact representable_fp _

theorem imdctChannel_stored {c : Channel} (h : c.stored) : (imdctChannel c).stored := by
  simp only [Channel.stored_iff, imdctChannel, Fin.getElem_fin, Vector.getElem_ofFn]
  exact ⟨inFormat_ofFn fun _ => representable_fp _,
    fun sb => inFormat_ofFn fun n => imdctOutput_representable c sb (n + 18), h.v⟩

theorem imdctEffect_keeps_inv : KeepsInv imdctEffect := fun _ ch h => h.setChan ch (imdctChannel_stored (h.chan ch))

theorem freqinvEffect_keeps_inv : KeepsInv freqinvEffect := fun _ ch h => by
  refine h.setXr ch (inFormat_ofFn fun i => ?_)
  split
  · exact (representable_neg _).trans ((h.chan ch).xr i)
  · exact (h.chan ch).xr i

theorem synthShift_inFormat (c : Channel) {v : Vector Rat 1024} (hv : InFormat v) (t : Nat) :
    InFormat (synthShift c v t) :=
  inFormat_ofFn fun i => by
    split
    · exact representable_fp _
    · exact hv.look _

theorem synthRows_inFormat (c : Channel) (ts : List Nat) {v : Vector Rat 1024} (hv : InFormat v) :
    InFormat (synthRows c ts v).1 := by
  induction ts generalizing v with
  | nil => exact hv
  | cons t ts ih => exact ih (synthShift_inFormat c hv t)

theorem synthEffect_keeps_inv : KeepsInv synthEffect := fun s ch h => by
  have hv := synthRows_inFormat (s.chan ch) (List.range 18) (h.chan ch).v
  exact (h.setChan ch ((h.chan ch).withV hv)).of_held_eq (by simp only [synthEffect, State.held])

theorem stereoLine_representable (isf : Option (Formula × Formula)) (ms : Bool) {l r : Rat}
    (hl : representable l = true) (hr : representable r = true) :
    representable (stereoLine isf ms l r).1 = true ∧ representable (stereoLine isf ms l r).2 = true := by
  unfold stereoLine
  split
  · exact ⟨representable_fp _, representable_fp _⟩
  · split
    · exact ⟨representable_fp _, representable_fp _⟩
    · exact ⟨hl, hr⟩

theorem stereoEffect_keeps_inv {s : State} (h : s.Inv) : (stereoEffect s).Inv := by
  have hpair (i : Nat) := stereoLine_representable (if s.isOn then intensityLine s i else none) s.msOn
    (h.stored0.xrLine i) (h.stored1.xrLine i)
  exact (h.setXr .c0 (inFormat_ofFn fun i => (hpair i).1)).setXr .c1 (inFormat_ofFn fun i => (hpair i).2)

theorem stereoBody_keeps_inv (s : State) (h : s.Inv) : (stereoBody s).left.Inv := by
  unfold stereoBody
  split_ifs
  · exact h
  · exact State.Inv.of_held_eq h rfl
  · exact stereoEffect_keeps_inv h

/-! ### HUFF changes nothing the invariant speaks of -/

theorem huffWrite_held (s : State) (ch : Ch) (h : HuffRun) : (huffWrite s ch h).held = s.held := by
  cases ch <;> rfl

theorem huffBroken_held (s : State) (ch : Ch) (h : HuffRun) : (huffBroken s ch h).held = s.held := by
  cases ch <;> rfl

theorem huffBody_held (s : State) (ch : Ch) : (huffBody s ch).left.held = s.held := by
  unfold huffBody
  split
  · rfl
  · split
    · exact huffBroken_held s ch _
    · simp only
      split_ifs <;> exact huffWrite_held s ch _

/-! ### BACKEND -/

theorem backendFront_keeps_inv (chs : List Ch) {r : CmdResult} (hr : r.left.Inv) : (backendFront chs r).left.Inv :=
  List.foldlRecOn (motive := fun r : CmdResult => r.left.Inv) _ _ hr fun _ h ch _ =>
    andThen_keeps_inv (andThen_keeps_inv h (requantEffect_keeps_inv.oneChannel _ ch))
      (reorderEffect_keeps_inv.oneChannel _ ch)

theorem backendBack_keeps_inv (chs : List Ch) {r : CmdResult} (hr : r.left.Inv) : (backendBack chs r).left.Inv :=
  List.foldlRecOn (motive := fun r : CmdResult => r.left.Inv) _ _ hr fun _ h ch _ =>
    andThen_keeps_inv
      (andThen_keeps_inv
        (andThen_keeps_inv (andThen_keeps_inv h (antialiasEffect_keeps_inv.oneChannel _ ch))
          (imdctEffect_keeps_inv.oneChannel _ ch))
        (freqinvEffect_keeps_inv.oneChannel _ ch))
      (synthEffect_keeps_inv.oneChannel _ ch)

theorem backendBody_keeps_inv {s : State} (h : s.Inv) : (backendBody s).left.Inv :=
  backendBack_keeps_inv _ (andThen_keeps_inv (backendFront_keeps_inv _ h) stereoBody_keeps_inv)

/-! ### The step -/

/-- The body of every command keeps the invariant, whether it ends well or raises an error. -/
theorem commandBody_keeps_inv (i : Instr) {s : State} (h : s.Inv) : (commandBody i s).left.Inv := by
  cases i with
  | nop => exact h
  | clearhist all ch => exact clearhistEffect_keeps_inv.perChannel _ all ch h
  | huff ch =>
    simp only [commandBody]
    split
    · exact h.of_held_eq (huffBody_held s ch)
    · exact h
  | requant all ch => exact requantEffect_keeps_inv.perChannel _ all ch h
  | reorder all ch => exact reorderEffect_keeps_inv.perChannel _ all ch h
  | stereo => exact stereoBody_keeps_inv s h
  | antialias all ch => exact antialiasEffect_keeps_inv.perChannel _ all ch h
  | imdct all ch => exact imdctEffect_keeps_inv.perChannel _ all ch h
  | freqinv all ch => exact freqinvEffect_keeps_inv.perChannel _ all ch h
  | synth all ch => exact synthEffect_keeps_inv.perChannel _ all ch h
  | silence => exact h.of_held_eq rfl
  | backend => exact backendBody_keeps_inv h

theorem exec_keeps_inv {i : Instr} {s t : State} (h : s.Inv) (ht : exec i s = .next t) : t.Inv :=
  finish_keeps_inv (commandBody_keeps_inv i h) (exec_eq_finish i s ▸ ht)

theorem runCommand_keeps_inv {s t : State} (h : s.Inv) (ht : runCommand s = .next t) : t.Inv := by
  unfold runCommand at ht
  split at ht
  · exact exec_keeps_inv h ht
  · exact finish_keeps_inv (r := .err illegalCommand s) h ht

/-- What a turn of the engine can do: nothing on an idle block, or the end of the running command. -/
theorem engineTurn_next {s t : State} (ht : engineTurn s = .next t) :
    (s.status.busy = false ∧ t = s) ∨ (s.status.busy = true ∧ runCommand s = .next t) := by
  unfold engineTurn at ht
  split at ht
  next hbusy => exact .inr ⟨hbusy, ht⟩
  next hidle => exact .inl ⟨by simpa using hidle, (Host.Outcome.next.inj ht).symm⟩

/-- What a step can do: the next host event, or a turn of the engine (20_memory.md R73; log 7). -/
theorem step_next {s t : State} (ht : step s = .next t) :
    (∃ e rest, s.inbox = e :: rest ∧ e.lands s.status.busy = true ∧ hostEvent e { s with inbox := rest } = .next t) ∨
    engineTurn s = .next t := by
  unfold step blockStep at ht
  split at ht
  next => exact .inr ht
  next e rest hinbox =>
    split at ht
    next hlands => exact .inl ⟨e, rest, hinbox, hlands, ht⟩
    next => exact .inr ht

/-- Settles O16: a step is a host event or a turn of the engine, and each keeps the invariant. -/
theorem stepKeepsInvariant : Obligations.StepKeepsInvariant := by
  intro s t h ht
  obtain ⟨e, rest, -, -, hev⟩ | hturn := step_next ht
  · have hrest : State.Inv { s with inbox := rest } := h.of_held_eq rfl
    exact hostEvent_keeps_inv hrest hev
  · obtain ⟨-, rfl⟩ | ⟨-, hrun⟩ := engineTurn_next hturn
    · exact h
    · exact runCommand_keeps_inv h hrun

end Sys2Proof.Machine

/-! ## What the bus shows, region by region -/

namespace Sys2Proof.Machine

/-! ### The address map (20_memory.md R70) -/

theorem regionOf_eq_regs {a : Nat} (h : a < 0x100) : regionOf a = .regs := if_pos h

theorem regionOf_eq_sf {a : Nat} (lo : 0x100 ≤ a) (hi : a < 0x180) : regionOf a = .sf := by
  simp (disch := omega) only [regionOf, if_neg, if_pos]

theorem regionOf_eq_md {a : Nat} (lo : 0x1000 ≤ a) (hi : a < 0x2000) : regionOf a = .md := by
  simp (disch := omega) only [regionOf, if_neg, if_pos]

theorem regionOf_eq_pcm {a : Nat} (lo : 0x2000 ≤ a) (hi : a < 0x2900) : regionOf a = .pcm := by
  simp (disch := omega) only [regionOf, if_neg, if_pos]

theorem regionOf_eq_isi {a : Nat} (lo : 0x3000 ≤ a) (hi : a < 0x3900) : regionOf a = .isi := by
  simp (disch := omega) only [regionOf, if_neg, if_pos]

theorem regionOf_eq_reserved {a : Nat}
    (h : (0x180 ≤ a ∧ a < 0x1000) ∨ (0x2900 ≤ a ∧ a < 0x3000) ∨ 0x3900 ≤ a) : regionOf a = .reserved := by
  simp (disch := omega) only [regionOf, if_neg]

theorem regionOf_ne_regs {a : Nat} (h : 0x100 ≤ a) : regionOf a ≠ .regs := by
  unfold regionOf
  rw [if_neg (Nat.not_lt.mpr h)]
  split_ifs <;> exact nofun

/-! ### A byte of each region as the host reads it -/

variable {s : State} {a : Nat}

theorem hostByte_of_regs (h : regionOf a = .regs) : s.hostByte a = byteOf (s.readReg (a - a % 4)) (a % 4) := by
  simp only [State.hostByte, h]

theorem hostByte_of_sf (h : regionOf a = .sf) :
    s.hostByte a = look (s.chan (sfChannel a)).sf ((a - 0x100) % 0x40) 0 := by
  simp only [State.hostByte, h]

theorem hostByte_of_md (h : regionOf a = .md) : s.hostByte a = s.mdByte (a - 0x1000) := by
  simp only [State.hostByte, h]

theorem hostByte_of_pcm (h : regionOf a = .pcm) :
    s.hostByte a =
      halfByte (if (a - 0x2000) / 2 % 2 = 0 then (look s.pcm ((a - 0x2000) / 4) (0, 0)).1
        else (look s.pcm ((a - 0x2000) / 4) (0, 0)).2) (a % 2) := by
  simp only [State.hostByte, h]

theorem hostByte_of_isi (h : regionOf a = .isi) :
    s.hostByte a = halfByte (look (s.chan (isiChannel a)).isi (isiIndex a) 0) (a % 2) := by
  simp only [State.hostByte, h]

theorem hostByte_of_reserved (h : regionOf a = .reserved) : s.hostByte a = 0 := by
  simp only [State.hostByte, h]

/-- What the byte at `a` depends on: the part of the state behind its region. -/
theorem hostByte_congr {t : State}
    (hregs : regionOf a = .regs → t.readReg (a - a % 4) = s.readReg (a - a % 4))
    (hsf : regionOf a = .sf → (t.chan (sfChannel a)).sf = (s.chan (sfChannel a)).sf)
    (hmd : regionOf a = .md → t.mdByte (a - 0x1000) = s.mdByte (a - 0x1000))
    (hpcm : regionOf a = .pcm → t.pcm = s.pcm)
    (hisi : regionOf a = .isi → (t.chan (isiChannel a)).isi = (s.chan (isiChannel a)).isi) :
    t.hostByte a = s.hostByte a := by
  cases hr : regionOf a with
  | regs => rw [hostByte_of_regs hr, hostByte_of_regs hr, hregs hr]
  | sf => rw [hostByte_of_sf hr, hostByte_of_sf hr, hsf hr]
  | md => rw [hostByte_of_md hr, hostByte_of_md hr, hmd hr]
  | pcm => rw [hostByte_of_pcm hr, hostByte_of_pcm hr, hpcm hr]
  | isi => rw [hostByte_of_isi hr, hostByte_of_isi hr, hisi hr]
  | reserved => rw [hostByte_of_reserved hr, hostByte_of_reserved hr]

end Sys2Proof.Machine

/-! ## What a command can write

The rule of a command lists the state it writes. `writtenBy` is that list; the parts of the state outside it are the
same before and after the command's body (`commandBody_blank`), which is what the statements about all commands need. -/

namespace Sys2Proof.Machine

open Claims

/-- Parts of the state a command can write: the internal arrays (10_state.md R38 to R40), `PCM` (R37), what HUFF writes
(`ISI`, `COUNT1`, `BITPOS` and `OOB`; R36, R113), the flags and `ERRINFO` that the end of a command writes
(60_exceptions.md R230), and the model's counter of free values (log 10, log 15). -/
structure Parts where
  xr : Bool := false
  prev : Bool := false
  v : Bool := false
  pcm : Bool := false
  spectrum : Bool := false
  flags : Bool := false
  draws : Bool := false

/-- The "State written" of each command's rule, but for the flags. -/
def writtenBy : Instr → Parts
  | .nop => {}
  | .clearhist _ _ => { prev := true, v := true }
  | .huff _ => { spectrum := true, draws := true }
  | .requant _ _ | .reorder _ _ | .antialias _ _ | .freqinv _ _ => { xr := true }
  | .stereo => { xr := true, draws := true }
  | .imdct _ _ => { xr := true, prev := true }
  | .synth _ _ => { v := true, pcm := true }
  | .silence => { pcm := true }
  | .backend => { xr := true, prev := true, v := true, pcm := true, draws := true }

/-- A channel with the given parts at their reset values. -/
def Channel.blank (p : Parts) (c : Channel) : Channel :=
  { c with
    xr := if p.xr then Channel.reset.xr else c.xr
    prev := if p.prev then Channel.reset.prev else c.prev
    v := if p.v then Channel.reset.v else c.v
    isi := if p.spectrum then Channel.reset.isi else c.isi
    count1 := if p.spectrum then Channel.reset.count1 else c.count1 }

/-- A state with the given parts at their reset values: states that agree after blanking differ in these parts only. -/
def State.blank (p : Parts) (s : State) : State :=
  { s with
    status :=
      { s.status with
        busy := if p.flags then false else s.status.busy
        done := if p.flags then false else s.status.done
        err := if p.flags then false else s.status.err
        oob := if p.spectrum then false else s.status.oob
        errcode := if p.flags then 0 else s.status.errcode }
    errinfo := if p.flags then 0 else s.errinfo
    bitpos := if p.spectrum then 0 else s.bitpos
    chan0 := s.chan0.blank p
    chan1 := s.chan1.blank p
    pcm := if p.pcm then State.reset.pcm else s.pcm
    draws := if p.draws then 0 else s.draws }

section blank

variable {p : Parts} {s t : State}

@[simp] theorem State.blank_chan (ch : Ch) : (s.blank p).chan ch = (s.chan ch).blank p := by
  cases ch <;> rfl

theorem State.chan_blank_eq (h : s.blank p = t.blank p) (ch : Ch) : (s.chan ch).blank p = (t.chan ch).blank p := by
  simpa using congrArg (State.chan · ch) h

/-- A write of a channel within the given parts. -/
theorem State.setChan_blank {ch : Ch} {c : Channel} (h : c.blank p = (s.chan ch).blank p) :
    (s.setChan ch c).blank p = s.blank p := by
  cases ch <;> simp_all [State.blank, State.setChan]

theorem State.setXr_blank (hx : p.xr = true) (ch : Ch) (x : Vector Rat 576) : (s.setXr ch x).blank p = s.blank p :=
  State.setChan_blank (by simp [Channel.blank, hx])

/-! ### What states that agree after blanking have in common -/

theorem State.flags_of_blank_eq (h : s.blank p = t.blank p) (hp : p.flags = false) :
    s.status.done = t.status.done ∧ s.status.err = t.status.err ∧ s.status.errcode = t.status.errcode ∧
      s.errinfo = t.errinfo :=
  ⟨by simpa [State.blank, hp] using congrArg (·.status.done) h,
    by simpa [State.blank, hp] using congrArg (·.status.err) h,
    by simpa [State.blank, hp] using congrArg (·.status.errcode) h,
    by simpa [State.blank, hp] using congrArg State.errinfo h⟩

theorem State.cursor_of_blank_eq (h : s.blank p = t.blank p) (hp : p.spectrum = false) :
    s.bitpos = t.bitpos ∧ s.status.oob = t.status.oob :=
  ⟨by simpa [State.blank, hp] using congrArg State.bitpos h,
    by simpa [State.blank, hp] using congrArg (·.status.oob) h⟩

theorem State.pcm_of_blank_eq (h : s.blank p = t.blank p) (hp : p.pcm = false) : s.pcm = t.pcm := by
  simpa [State.blank, hp] using congrArg State.pcm h

section channel

variable {c d : Channel} (h : c.blank p = d.blank p)

include h

theorem Channel.xr_of_blank_eq (hp : p.xr = false) : c.xr = d.xr := by
  simpa [Channel.blank, hp] using congrArg Channel.xr h

theorem Channel.prev_of_blank_eq (hp : p.prev = false) : c.prev = d.prev := by
  simpa [Channel.blank, hp] using congrArg Channel.prev h

theorem Channel.v_of_blank_eq (hp : p.v = false) : c.v = d.v := by
  simpa [Channel.blank, hp] using congrArg Channel.v h

theorem Channel.spectrum_of_blank_eq (hp : p.spectrum = false) : c.isi = d.isi ∧ c.count1 = d.count1 :=
  ⟨by simpa [Channel.blank, hp] using congrArg Channel.isi h,
    by simpa [Channel.blank, hp] using congrArg Channel.count1 h⟩

end channel

end blank

/-! ### Each effect writes its parts -/

/-- An effect on one channel that writes the given parts only. -/
def WritesOnly (p : Parts) (effect : State → Ch → State) : Prop := ∀ s ch, (effect s ch).blank p = s.blank p

variable {p : Parts}

theorem clearhistEffect_writesOnly (hp : p.prev = true) (hv : p.v = true) : WritesOnly p clearhistEffect :=
  fun _ _ => State.setChan_blank (by simp [Channel.blank, hp, hv])

theorem requantEffect_writesOnly (hx : p.xr = true) : WritesOnly p requantEffect := fun _ ch => State.setXr_blank hx ch _

theorem reorderEffect_writesOnly (hx : p.xr = true) : WritesOnly p reorderEffect := fun _ ch => State.setXr_blank hx ch _

theorem antialiasEffect_writesOnly (hx : p.xr = true) : WritesOnly p antialiasEffect :=
  fun _ ch => State.setXr_blank hx ch _

theorem freqinvEffect_writesOnly (hx : p.xr = true) : WritesOnly p freqinvEffect := fun _ ch => State.setXr_blank hx ch _

theorem imdctEffect_writesOnly (hx : p.xr = true) (hp : p.prev = true) : WritesOnly p imdctEffect :=
  fun _ _ => State.setChan_blank (by simp [Channel.blank, imdctChannel, hx, hp])

theorem synthEffect_writesOnly (hv : p.v = true) (hpcm : p.pcm = true) : WritesOnly p synthEffect := fun s ch => by
  cases ch <;> simp [synthEffect, State.blank, Channel.blank, hv, hpcm]

theorem stereoEffect_blank (hx : p.xr = true) (s : State) : (stereoEffect s).blank p = s.blank p := by
  unfold stereoEffect
  rw [State.setXr_blank hx, State.setXr_blank hx]

theorem WritesOnly.foldl {effect : State → Ch → State} (he : WritesOnly p effect) (l : List Ch) (s : State) :
    (l.foldl effect s).blank p = s.blank p :=
  foldl_keeps (P := fun u => u.blank p = s.blank p) (fun u ch hu => (he u ch).trans hu) l rfl

theorem WritesOnly.perChannel {effect : State → Ch → State} (he : WritesOnly p effect)
    (check : State → Ch → Option CmdError) (all : Bool) (ch : Ch) (s : State) :
    (perChannel check effect all ch s).left.blank p = s.blank p := by
  obtain ⟨-, hr⟩ | ⟨-, e, -, hr⟩ | ⟨-, -, hr⟩ := perChannel_cases check effect all ch s
  · rw [hr]; rfl
  · rw [hr]; rfl
  · rw [hr]; exact he.foldl _ s

theorem WritesOnly.oneChannel {effect : State → Ch → State} (he : WritesOnly p effect)
    (check : State → Ch → Option CmdError) (ch : Ch) (s : State) :
    (oneChannel check effect ch s).left.blank p = s.blank p := by
  obtain ⟨e, -, hr⟩ | ⟨-, hr⟩ := oneChannel_cases check effect ch s
  · rw [hr]; rfl
  · rw [hr]; exact he s ch

/-- A further step that writes the given parts only. -/
theorem andThen_blank {f : State → CmdResult} (hf : ∀ u, (f u).left.blank p = u.blank p) (r : CmdResult) :
    (r.andThen f).left.blank p = r.left.blank p := by
  cases r with
  | ok u => exact hf u
  | err e u => rfl

theorem stereoBody_blank (hx : p.xr = true) (hd : p.draws = true) (s : State) :
    (stereoBody s).left.blank p = s.blank p := by
  unfold stereoBody
  split_ifs
  · rfl
  · simp [CmdResult.left, State.blank, hd]
  · exact stereoEffect_blank hx s

theorem huffWrite_blank (hs : p.spectrum = true) (s : State) (ch : Ch) (h : HuffRun) :
    (huffWrite s ch h).blank p = s.blank p := by
  cases ch <;> simp [huffWrite, State.blank, Channel.blank, hs]

theorem huffBroken_blank (hs : p.spectrum = true) (hd : p.draws = true) (s : State) (ch : Ch) (h : HuffRun) :
    (huffBroken s ch h).blank p = s.blank p := by
  cases ch <;> simp [huffBroken, State.blank, Channel.blank, hs, hd]

theorem huffBody_blank (hs : p.spectrum = true) (hd : p.draws = true) (s : State) (ch : Ch) :
    (huffBody s ch).left.blank p = s.blank p := by
  unfold huffBody
  split
  · rfl
  · split
    · exact huffBroken_blank hs hd s ch _
    · simp only
      split_ifs <;> exact huffWrite_blank hs s ch _

theorem backendFront_blank (hx : p.xr = true) (chs : List Ch) (r : CmdResult) :
    (backendFront chs r).left.blank p = r.left.blank p :=
  List.foldlRecOn (motive := fun q : CmdResult => q.left.blank p = r.left.blank p) _ _ rfl fun _ hq ch _ => by
    rw [andThen_blank ((reorderEffect_writesOnly hx).oneChannel _ ch),
      andThen_blank ((requantEffect_writesOnly hx).oneChannel _ ch), hq]

theorem backendBack_blank (hx : p.xr = true) (hp : p.prev = true) (hv : p.v = true) (hpcm : p.pcm = true)
    (chs : List Ch) (r : CmdResult) : (backendBack chs r).left.blank p = r.left.blank p :=
  List.foldlRecOn (motive := fun q : CmdResult => q.left.blank p = r.left.blank p) _ _ rfl fun _ hq ch _ => by
    rw [andThen_blank ((synthEffect_writesOnly hv hpcm).oneChannel _ ch),
      andThen_blank ((freqinvEffect_writesOnly hx).oneChannel _ ch),
      andThen_blank ((imdctEffect_writesOnly hx hp).oneChannel _ ch),
      andThen_blank ((antialiasEffect_writesOnly hx).oneChannel _ ch), hq]

/-- Every command's body leaves what its rule does not list as it was. -/
theorem commandBody_blank (i : Instr) (s : State) :
    (commandBody i s).left.blank (writtenBy i) = s.blank (writtenBy i) := by
  cases i with
  | nop => rfl
  | clearhist all ch => exact (clearhistEffect_writesOnly rfl rfl).perChannel _ all ch s
  | huff ch =>
    simp only [commandBody]
    split
    · exact huffBody_blank rfl rfl s ch
    · rfl
  | requant all ch => exact (requantEffect_writesOnly rfl).perChannel _ all ch s
  | reorder all ch => exact (reorderEffect_writesOnly rfl).perChannel _ all ch s
  | stereo => exact stereoBody_blank rfl rfl s
  | antialias all ch => exact (antialiasEffect_writesOnly rfl).perChannel _ all ch s
  | imdct all ch => exact (imdctEffect_writesOnly rfl rfl).perChannel _ all ch s
  | freqinv all ch => exact (freqinvEffect_writesOnly rfl).perChannel _ all ch s
  | synth all ch => exact (synthEffect_writesOnly rfl rfl).perChannel _ all ch s
  | silence => rfl
  | backend =>
    simp only [commandBody, backendBody]
    rw [backendBack_blank rfl rfl rfl rfl, andThen_blank (stereoBody_blank rfl rfl), backendFront_blank rfl]
    rfl

/-! ### The end of a command -/

/-- What the whole of a command writes: what its rule lists, and the flags. -/
def writtenAtEnd (i : Instr) : Parts := { writtenBy i with flags := true }

/-- The end of a command writes the flags only. -/
theorem finish_blank {r : CmdResult} {t : State} (hf : p.flags = true) (h : finish r = .next t) :
    t.blank p = r.left.blank p := by
  obtain ⟨u, rfl, rfl⟩ | ⟨e, u, rfl, rfl⟩ := finish_next h <;>
    simp [State.blank, CmdResult.left, hf]

/-- A command leaves everything but the flags and what its rule lists as it was. -/
theorem exec_blank {i : Instr} {s t : State} (h : exec i s = .next t) :
    t.blank (writtenAtEnd i) = s.blank (writtenAtEnd i) := by
  have hbody : (commandBody i s).left.blank (writtenAtEnd i) = s.blank (writtenAtEnd i) :=
    (congrArg (State.blank { flags := true }) (commandBody_blank i s) :)
  rw [finish_blank rfl (exec_eq_finish i s ▸ h), hbody]

theorem ErrCode.code_mem (k : ErrCode) : k.code ∈ ([1, 2, 3, 4] : List (BitVec 4)) := by
  cases k <;> decide

/-- Settles O17: a body leaves the flags as they were, and its end sets `DONE`, or `ERR` with the code of the error. -/
theorem commandEndsWithDoneOrError : Obligations.CommandEndsWithDoneOrError := by
  intro i s
  have hblank := commandBody_blank i s
  have hflags : (writtenBy i).flags = false := by cases i <;> rfl
  obtain ⟨hdone, herr, hcode, hinfo⟩ := State.flags_of_blank_eq hblank hflags
  rw [exec_eq_finish]
  cases hb : commandBody i s with
  | ok u =>
    rw [hb] at hinfo herr hcode
    exact ⟨_, rfl, rfl, .inl ⟨rfl, herr, hcode, hinfo⟩⟩
  | err e u =>
    rw [hb] at hdone
    exact ⟨_, rfl, rfl, .inr ⟨rfl, hdone, e.kind.code_mem⟩⟩

/-! ### What the host alone writes -/

/-- What the host alone writes in a channel (10_state.md R41). -/
def Channel.hostOwned (c : Channel) := (c.gcd0, c.gcd1, c.gcd2, c.part2Start, c.sf)

theorem Channel.hostOwned_of_blank_eq {c d : Channel} (h : c.blank p = d.blank p) : c.hostOwned = d.hostOwned :=
  (congrArg Channel.hostOwned h :)

theorem mdByte_congr {s t : State} (hm : t.mem = s.mem) (hd : t.mdDraw = s.mdDraw) (k : Nat) : t.mdByte k = s.mdByte k := by
  rw [State.mdByte, State.mdByte, hm, hd]

/-- Settles O18: what the host alone writes is outside the parts any command writes. -/
theorem commandsKeepHostOwnedState : Obligations.CommandsKeepHostOwnedState := by
  intro i s t h
  have hblank := exec_blank h
  have hchan (ch : Ch) : (t.chan ch).hostOwned = (s.chan ch).hostOwned :=
    Channel.hostOwned_of_blank_eq (State.chan_blank_eq hblank ch)
  simp only [Channel.hostOwned, Prod.mk.injEq] at hchan
  have hmd : ∀ k, t.mdByte k = s.mdByte k :=
    mdByte_congr (congrArg State.mem hblank :) (congrArg State.mdDraw hblank :)
  refine ⟨(congrArg State.irqEn hblank :), (congrArg State.cfg hblank :), (congrArg State.isillL hblank :),
    (congrArg State.isillS hblank :), (congrArg State.mem hblank :), (congrArg State.mdLen hblank :),
    (congrArg State.cmd hblank :), (congrArg (·.status.overrun) hblank :), hchan, hmd, ?_⟩
  rintro a (⟨lo, hi⟩ | ⟨lo, hi⟩)
  · have hr := regionOf_eq_sf lo hi
    obtain ⟨-, -, -, -, hsf⟩ := hchan (sfChannel a)
    rw [hostByte_of_sf hr, hostByte_of_sf hr, hsf]
  · have hr := regionOf_eq_md lo hi
    rw [hostByte_of_md hr, hostByte_of_md hr, hmd]

end Sys2Proof.Machine

namespace Sys2Proof.Machine

open Claims

/-! ### Which commands write which arrays -/

/-- The PCM buffer's bytes depend on `PCM` only. -/
theorem hostByte_pcm_congr {s t : State} {a : Nat} (h : t.pcm = s.pcm) (ha : pcmBytes a) : t.hostByte a = s.hostByte a := by
  have hr := regionOf_eq_pcm ha.1 ha.2
  rw [hostByte_of_pcm hr, hostByte_of_pcm hr, h]

section written

variable {i : Instr}

theorem writtenBy_spectrum (h : ∀ ch, i ≠ .huff ch) : (writtenBy i).spectrum = false := by
  cases i with
  | huff ch => exact absurd rfl (h ch)
  | _ => rfl

theorem writtenBy_prev (h : ∀ all ch, i ≠ .imdct all ch ∧ i ≠ .clearhist all ch) (hb : i ≠ .backend) :
    (writtenBy i).prev = false := by
  cases i with
  | imdct all ch => exact absurd rfl (h all ch).1
  | clearhist all ch => exact absurd rfl (h all ch).2
  | backend => exact absurd rfl hb
  | _ => rfl

theorem writtenBy_v (h : ∀ all ch, i ≠ .synth all ch ∧ i ≠ .clearhist all ch) (hb : i ≠ .backend) :
    (writtenBy i).v = false := by
  cases i with
  | synth all ch => exact absurd rfl (h all ch).1
  | clearhist all ch => exact absurd rfl (h all ch).2
  | backend => exact absurd rfl hb
  | _ => rfl

theorem writtenBy_pcm (h : ∀ all ch, i ≠ .synth all ch) (hs : i ≠ .silence) (hb : i ≠ .backend) :
    (writtenBy i).pcm = false := by
  cases i with
  | synth all ch => exact absurd rfl (h all ch)
  | silence => exact absurd rfl hs
  | backend => exact absurd rfl hb
  | _ => rfl

theorem writtenBy_xr
    (h : i = .nop ∨ i = .silence ∨ (∃ ch, i = .huff ch) ∨ ∃ all ch, i = .clearhist all ch ∨ i = .synth all ch) :
    (writtenBy i).xr = false := by
  obtain rfl | rfl | ⟨ch, rfl⟩ | ⟨all, ch, rfl | rfl⟩ := h <;> rfl

end written

/-- Settles O19: a part that `writtenBy` does not list for the command is as it was. -/
theorem commandsWriteOnlyTheirArrays : Obligations.CommandsWriteOnlyTheirArrays := by
  intro i s t h
  have hblank := exec_blank h
  have hchan (ch : Ch) := State.chan_blank_eq hblank ch
  refine ⟨fun hi => ?_, fun hi hb ch => ?_, fun hi hb ch => ?_, fun hi hs hb => ?_, fun hi ch => ?_⟩
  · have hspectrum := writtenBy_spectrum hi
    obtain ⟨hbitpos, hoob⟩ := State.cursor_of_blank_eq hblank hspectrum
    exact ⟨hbitpos, hoob, fun ch => Channel.spectrum_of_blank_eq (hchan ch) hspectrum⟩
  · exact Channel.prev_of_blank_eq (hchan ch) (writtenBy_prev hi hb)
  · exact Channel.v_of_blank_eq (hchan ch) (writtenBy_v hi hb)
  · have hpcm := State.pcm_of_blank_eq hblank (writtenBy_pcm hi hs hb)
    exact ⟨hpcm, fun a ha => hostByte_pcm_congr hpcm ha⟩
  · exact Channel.xr_of_blank_eq (hchan ch) (writtenBy_xr hi)

/-! ## The internal arrays show only through `PCM`

Every command's body, run in two states that differ in `XR`, `PREV`, `V` and `PCM` only, ends the same way in states that
differ in these only: its checks and HUFF's decode read none of them. -/

/-- `XR`, `PREV`, `V` and `PCM`. -/
def arrays : Parts := { xr := true, prev := true, v := true, pcm := true }

/-- How a body ends, but for the arrays. -/
def CmdResult.blank (p : Parts) : CmdResult → CmdResult
  | .ok s => .ok (s.blank p)
  | .err e s => .err e (s.blank p)

/-- A body whose end depends on the arrays only in the arrays. -/
def Blind (body : State → CmdResult) : Prop :=
  ∀ s s' : State, s.blank arrays = s'.blank arrays → (body s).blank arrays = (body s').blank arrays

/-- A body that reads nothing of the arrays but to write them. -/
theorem Blind.of_blank {body g : State → CmdResult} (h : ∀ s, (body s).blank arrays = g (s.blank arrays)) : Blind body :=
  fun s s' hs => by rw [h, h, hs]

/-- Two ends that agree but for the arrays, continued blindly, do so still. -/
theorem Blind.andThen {f : State → CmdResult} (hf : Blind f) {r r' : CmdResult} (h : r.blank arrays = r'.blank arrays) :
    (r.andThen f).blank arrays = (r'.andThen f).blank arrays := by
  cases r with
  | ok s =>
    cases r' with
    | ok s' => exact hf s s' (CmdResult.ok.inj h)
    | err e' s' => exact CmdResult.noConfusion h
  | err e s =>
    cases r' with
    | ok s' => exact CmdResult.noConfusion h
    | err e' s' => exact h

/-- A check that does not read the arrays. -/
def CheckBlind (check : State → Ch → Option CmdError) : Prop := ∀ s ch, check (s.blank arrays) ch = check s ch

theorem noCheck_blind : CheckBlind noCheck := fun _ _ => rfl

theorem splitCheck_blind : CheckBlind splitCheck := fun _ ch => by cases ch <;> rfl

theorem requantCheck_blind : CheckBlind requantCheck := fun _ ch => by cases ch <;> rfl

theorem reorderCheck_blind : CheckBlind reorderCheck := fun _ ch => by cases ch <;> rfl

theorem huffCheck_blind : CheckBlind huffCheck := fun _ ch => by cases ch <;> rfl

/-- A per-channel command that writes the arrays only ends, but for them, as one that has no effect. -/
theorem perChannel_blank {check : State → Ch → Option CmdError} {effect : State → Ch → State} (hc : CheckBlind check)
    (he : WritesOnly arrays effect) (all : Bool) (ch : Ch) (s : State) :
    (perChannel check effect all ch s).blank arrays =
      perChannel check (fun u _ => u) all ch (s.blank arrays) := by
  have hlegal : channelsLegal (s.blank arrays) all ch = channelsLegal s all ch := rfl
  have hchans : chans (s.blank arrays) all ch = chans s all ch := rfl
  have hcheck : check (s.blank arrays) = check s := funext (hc s)
  unfold perChannel
  rw [hlegal, hchans, hcheck]
  split
  · split
    · rfl
    · simp [CmdResult.blank, he.foldl]
  · rfl

theorem oneChannel_blank {check : State → Ch → Option CmdError} {effect : State → Ch → State} (hc : CheckBlind check)
    (he : WritesOnly arrays effect) (ch : Ch) (s : State) :
    (oneChannel check effect ch s).blank arrays = oneChannel check (fun u _ => u) ch (s.blank arrays) := by
  unfold oneChannel
  rw [hc s ch]
  split
  · rfl
  · simp [CmdResult.blank, he s ch]

theorem perChannel_blind {check : State → Ch → Option CmdError} {effect : State → Ch → State} (hc : CheckBlind check)
    (he : WritesOnly arrays effect) (all : Bool) (ch : Ch) : Blind (perChannel check effect all ch) :=
  Blind.of_blank (perChannel_blank hc he all ch)

theorem oneChannel_blind {check : State → Ch → Option CmdError} {effect : State → Ch → State} (hc : CheckBlind check)
    (he : WritesOnly arrays effect) (ch : Ch) : Blind (oneChannel check effect ch) :=
  Blind.of_blank (oneChannel_blank hc he ch)

theorem stereoBody_blind : Blind stereoBody := by
  refine Blind.of_blank (g := fun u => (stereoBody u).blank arrays) fun s => ?_
  have hmode : (s.blank arrays).chMode = s.chMode := rfl
  have hrange : stereoOutOfRange (s.blank arrays) = stereoOutOfRange s := rfl
  simp only [stereoBody, hmode, hrange]
  split_ifs
  · rfl
  · rfl
  · simp only [CmdResult.blank, stereoEffect_blank (p := arrays) rfl]
    rfl

theorem backendBody_blind : Blind backendBody := fun s s' hs => by
  have hchannels : s.channels = s'.channels := (congrArg State.channels hs :)
  have front : (backendFront s.channels (.ok s)).blank arrays = (backendFront s.channels (.ok s')).blank arrays :=
    List.foldl_rel (r := fun r r' : CmdResult => r.blank arrays = r'.blank arrays) (congrArg CmdResult.ok hs) fun ch _ _ _ h =>
      (oneChannel_blind reorderCheck_blind (reorderEffect_writesOnly rfl) ch).andThen
        ((oneChannel_blind requantCheck_blind (requantEffect_writesOnly rfl) ch).andThen h)
  unfold backendBody
  rw [← hchannels]
  exact List.foldl_rel (r := fun r r' : CmdResult => r.blank arrays = r'.blank arrays) (stereoBody_blind.andThen front)
    fun ch _ _ _ h =>
      (oneChannel_blind noCheck_blind (synthEffect_writesOnly rfl rfl) ch).andThen
        ((oneChannel_blind noCheck_blind (freqinvEffect_writesOnly rfl) ch).andThen
          ((oneChannel_blind splitCheck_blind (imdctEffect_writesOnly rfl rfl) ch).andThen
            ((oneChannel_blind splitCheck_blind (antialiasEffect_writesOnly rfl) ch).andThen h)))

/-! ### HUFF reads none of the arrays -/

section huff

variable (s : State)

theorem readBits_blank (n : Nat) (r : Reader) : readBits (s.blank arrays) n r = readBits s n r := rfl

theorem decodeCode_blank {α : Type} (table : List (List Bool × α)) (fuel : Nat) (pre : List Bool) (r : Reader) :
    decodeCode (s.blank arrays) table fuel pre r = decodeCode s table fuel pre r := by
  induction fuel generalizing pre r with
  | zero => rfl
  | succ fuel ih =>
    unfold decodeCode
    rw [readBits_blank]
    simp only [ih]

theorem decodePair_blank (t : Nat) (r : Reader) : decodePair (s.blank arrays) t r = decodePair s t r := by
  unfold decodePair
  rw [decodeCode_blank]
  rfl

theorem decodeQuadCode_blank (tableB : Bool) (r : Reader) :
    decodeQuadCode (s.blank arrays) tableB r = decodeQuadCode s tableB r := by
  unfold decodeQuadCode
  rw [decodeCode_blank]
  rfl

theorem decodeQuad_blank (tableB : Bool) (r : Reader) :
    decodeQuad (s.blank arrays) tableB r = decodeQuad s tableB r := by
  unfold decodeQuad
  rw [decodeQuadCode_blank]
  rfl

theorem pairsLoop_blank (c : Channel) (n : Nat) (h : HuffRun) :
    pairsLoop (s.blank arrays) (c.blank arrays) n h = pairsLoop s c n h := by
  induction n generalizing h with
  | zero => rfl
  | succ n ih =>
    have htable : tableFor (c.blank arrays) (regions (s.blank arrays) (c.blank arrays)) h.pos =
        tableFor c (regions s c) h.pos := rfl
    simp only [pairsLoop, htable, decodePair_blank, ih]

theorem quadsLoop_blank (c : Channel) (n : Nat) (h : HuffRun) :
    quadsLoop (s.blank arrays) (c.blank arrays) n h = quadsLoop s c n h := by
  induction n generalizing h with
  | zero => rfl
  | succ n ih =>
    have htable : (c.blank arrays).c1tsel = c.c1tsel := rfl
    have hend : (c.blank arrays).regionEnd = c.regionEnd := rfl
    simp only [quadsLoop, htable, hend, decodeQuad_blank, ih]

theorem huffDecode_blank (ch : Ch) : huffDecode (s.blank arrays) ch = huffDecode s ch := by
  simp only [huffDecode, State.blank_chan, pairsLoop_blank, quadsLoop_blank]
  rfl

theorem huffBody_blank_arrays (ch : Ch) : (huffBody s ch).blank arrays = huffBody (s.blank arrays) ch := by
  have hend : ((s.chan ch).blank arrays).regionEnd = (s.chan ch).regionEnd := rfl
  have hwrite (h : HuffRun) : huffWrite (s.blank arrays) ch h = (huffWrite s ch h).blank arrays := by cases ch <;> rfl
  have hbroken (h : HuffRun) : huffBroken (s.blank arrays) ch h = (huffBroken s ch h).blank arrays := by
    cases ch <;> rfl
  simp only [huffBody, huffCheck_blind s ch, huffDecode_blank, State.blank_chan, hend, hwrite, hbroken]
  split
  · rfl
  · split
    · rfl
    · split_ifs <;> rfl

end huff

theorem huffCommand_blind (ch : Ch) : Blind (commandBody (.huff ch)) := by
  refine Blind.of_blank (g := commandBody (.huff ch)) fun s => ?_
  have hlegal : channelsLegal (s.blank arrays) false ch = channelsLegal s false ch := rfl
  simp only [commandBody, hlegal]
  split
  · exact huffBody_blank_arrays s ch
  · rfl

theorem commandBody_blind (i : Instr) : Blind (commandBody i) := by
  cases i with
  | nop => exact Blind.of_blank (g := .ok) fun _ => rfl
  | clearhist all ch => exact perChannel_blind noCheck_blind (clearhistEffect_writesOnly rfl rfl) all ch
  | huff ch => exact huffCommand_blind ch
  | requant all ch => exact perChannel_blind requantCheck_blind (requantEffect_writesOnly rfl) all ch
  | reorder all ch => exact perChannel_blind reorderCheck_blind (reorderEffect_writesOnly rfl) all ch
  | stereo => exact stereoBody_blind
  | antialias all ch => exact perChannel_blind splitCheck_blind (antialiasEffect_writesOnly rfl) all ch
  | imdct all ch => exact perChannel_blind splitCheck_blind (imdctEffect_writesOnly rfl rfl) all ch
  | freqinv all ch => exact perChannel_blind noCheck_blind (freqinvEffect_writesOnly rfl) all ch
  | synth all ch => exact perChannel_blind noCheck_blind (synthEffect_writesOnly rfl rfl) all ch
  | silence => exact Blind.of_blank (g := .ok) fun _ => rfl
  | backend => exact backendBody_blind

/-- Ends of a body that agree but for the arrays end the command so. -/
theorem finish_blank_arrays {r r' : CmdResult} {t t' : State} (h : r.blank arrays = r'.blank arrays) (ht : finish r = .next t)
    (ht' : finish r' = .next t') : t.blank arrays = t'.blank arrays := by
  obtain ⟨u, rfl, rfl⟩ | ⟨e, u, rfl, rfl⟩ := finish_next ht
  · obtain ⟨u', rfl, rfl⟩ | ⟨e', u', rfl, rfl⟩ := finish_next ht'
    · exact (congrArg State.endDone (CmdResult.ok.inj h) :)
    · exact CmdResult.noConfusion h
  · obtain ⟨u', rfl, rfl⟩ | ⟨e', u', rfl, rfl⟩ := finish_next ht'
    · exact CmdResult.noConfusion h
    · obtain ⟨rfl, hu⟩ := CmdResult.err.inj h
      exact (congrArg (State.endError · e) hu :)

/-- `hide` blanks the arrays but `PCM`. -/
theorem hide_eq_blank (s : State) : hide s = { s.blank arrays with pcm := s.pcm } := rfl

/-- Settles O23: the command's body is blind to `XR`, `PREV`, `V`, and its end reads none of them. -/
theorem internalArraysShowOnlyThroughPcm : Obligations.InternalArraysShowOnlyThroughPcm := by
  intro i s s' t t' hs ht ht'
  rw [exec_eq_finish] at ht ht'
  have hblank : s.blank arrays = s'.blank arrays := (congrArg (State.blank arrays) hs :)
  have hend : t.blank arrays = t'.blank arrays := finish_blank_arrays (commandBody_blind i s s' hblank) ht ht'
  rw [hide_eq_blank, hide_eq_blank, hend]

end Sys2Proof.Machine

/-! ## The step, and what the bus reads -/

namespace Sys2Proof.Machine

open Claims

/-! ### The step -/

/-- With no event that lands now, a step is the engine's turn. -/
theorem step_eq_engineTurn {s : State} (h : ∀ e rest, s.inbox = e :: rest → e.lands s.status.busy = false) :
    step s = engineTurn s := by
  unfold step blockStep
  split
  · rfl
  · next e rest hinbox => rw [h e rest hinbox]; rfl

/-- An idle block makes the host's next access. -/
theorem step_of_idle_access {s : State} {b : Bool} {a : Access} {rest : List HostEvent} (hidle : s.status.busy = false)
    (hinbox : s.inbox = .access b a :: rest) : step s = hostAccess a { s with inbox := rest } := by
  simp [step, blockStep, hinbox, HostEvent.lands, hidle, hostEvent]

/-- A legal access of an idle block is made. -/
theorem hostAccess_of_idle {s : State} {a : Access} (hidle : s.status.busy = false) (hlegal : a.legal = true) :
    hostAccess a s = .next (s.access a) := by
  simp [hostAccess, hlegal, hidle]

theorem access_writeCmd (s : State) (w : Word) :
    s.access (.write .word 0x008 w) = if s.status.busy then s.overrun else s.startCommand w := rfl

/-- Settles O4: the engine takes its turn, and the turn of a busy block runs the command. -/
theorem stepRunsDecodedCommand : Obligations.StepRunsDecodedCommand := by
  rintro s i ⟨hbusy, hnext⟩ hdecode
  rw [step_eq_engineTurn (hbusy ▸ hnext), engineTurn, if_pos hbusy, runCommand, hdecode]

/-- Settles O6: the engine has nothing to do, and a legal access at the head of `inbox` is made. -/
theorem idleStepMakesHostAccess : Obligations.IdleStepMakesHostAccess := by
  intro s hidle
  refine ⟨fun hinbox => ?_, fun b a rest hinbox hlegal => ?_, fun b w rest hinbox => ?_⟩
  · rw [step_eq_engineTurn (by simp [hinbox]), engineTurn, hidle]
    rfl
  · rw [step_of_idle_access hidle hinbox, hostAccess_of_idle (s := { s with inbox := rest }) hidle hlegal]
  · have hlegal : (Access.write .word 0x008 w).legal = true := rfl
    rw [step_of_idle_access hidle hinbox, hostAccess_of_idle (s := { s with inbox := rest }) hidle hlegal,
      access_writeCmd]
    simp [hidle, State.startCommand]

/-! ### Reading the bus -/

/-- A byte of a read is a byte of the address space (20_memory.md R66), and the bytes above the access are 0. -/
theorem getLsbD_busRead (s : State) (a n : Nat) {i : Nat} (hi : i < 32) :
    (s.busRead a n).getLsbD i = (decide (i < 8 * n) && (s.hostByte (a + i / 8)).getLsbD (i % 8)) := by
  induction n with
  | zero => simp [State.busRead]
  | succ n ih =>
    have hsucc : s.busRead a (n + 1) = s.busRead a n ||| (s.hostByte (a + n)).setWidth 32 <<< (8 * n) := by
      simp [State.busRead, List.range_succ]
    rw [hsucc, BitVec.getLsbD_or, ih, BitVec.getLsbD_shiftLeft, BitVec.getLsbD_setWidth]
    obtain hlow | hbyte | hhigh : i < 8 * n ∨ (8 * n ≤ i ∧ i < 8 * n + 8) ∨ 8 * n + 8 ≤ i := by omega
    · simp [hlow, show i < 8 * (n + 1) by omega]
    · have hdiv : i / 8 = n := by omega
      have hmod : i % 8 = i - 8 * n := by omega
      simp [hdiv, hmod, hi, show ¬ i < 8 * n by omega, show i < 8 * (n + 1) by omega, show i - 8 * n < 32 by omega]
    · have hout : (s.hostByte (a + n)).getLsbD (i - 8 * n) = false := BitVec.getLsbD_of_ge _ _ (by omega)
      simp [hout, show ¬ i < 8 * n by omega, show ¬ i < 8 * (n + 1) by omega]

/-- A word read of a register gives the register. -/
theorem busRead_of_regs (s : State) {a : Nat} (ha : a < 0x100) (h4 : a % 4 = 0) : s.busRead a 4 = s.readReg a := by
  refine BitVec.eq_of_getLsbD_eq fun i hi => ?_
  have hr : regionOf (a + i / 8) = .regs := regionOf_eq_regs (by omega)
  have hmod : (a + i / 8) % 4 = i / 8 := by omega
  have hbase : a + i / 8 - i / 8 = a := by omega
  have hbit : 8 * (i / 8) + i % 8 = i := by omega
  rw [getLsbD_busRead s a 4 hi, hostByte_of_regs hr, hmod, hbase, byteOf, BitVec.getLsbD_extractLsb', hbit]
  simp [hi, show i % 8 < 8 by omega]

/-! ### The `STATUS` register (10_state.md R23) -/

theorem access_writeStatus (s : State) (w : Word) : s.access (.write .word 0x004 w) = s.writeStatus w := rfl

theorem writeStatus_status (s : State) (w : Word) :
    (s.writeStatus w).status =
      { busy := s.status.busy
        done := s.status.done && !w.getLsbD 1
        err := s.status.err && !w.getLsbD 2
        oob := s.status.oob && !w.getLsbD 3
        errcode := if w.getLsbD 2 then 0 else s.status.errcode
        overrun := s.status.overrun && !w.getLsbD 8 } := by
  unfold State.writeStatus
  cases w.getLsbD 2 <;> simp

theorem writeStatus_frame (s : State) (w : Word) :
    s.writeStatus w = { s with status := (s.writeStatus w).status, errinfo := (s.writeStatus w).errinfo } := by
  unfold State.writeStatus
  split <;> rfl

/-- Settles O10: the fields of `STATUS` after the write, one by one. -/
theorem statusWriteOneToClear : Obligations.StatusWriteOneToClear := by
  intro s w
  rw [access_writeStatus]
  refine ⟨_, rfl, writeStatus_frame s w, ?_⟩
  rw [writeStatus_status, State.writeStatus_errinfo]
  refine ⟨rfl, by simp, by simp, by simp, by simp, fun h2 => ?_, fun h2 => ?_⟩
  · exact ⟨if_pos h2, if_pos h2⟩
  · rw [h2]
    exact ⟨rfl, rfl⟩

/-- The fields of `STATUS` in the word the host reads. -/
theorem Status.getLsbD_word (st : Status) (k : Nat) :
    st.word.getLsbD k =
      if k = 0 then st.busy else if k = 1 then st.done else if k = 2 then st.err else if k = 3 then st.oob
      else if k < 8 then st.errcode.getLsbD (k - 4) else if k = 8 then st.overrun else false := by
  simp only [Status.word, BitVec.getLsbD_append, BitVec.getLsbD_ofBool]
  obtain hk | hk : k < 9 ∨ 9 ≤ k := by omega
  · interval_cases k <;> rfl
  · simp (disch := omega) only [if_neg]
    simp

/-- Settles O11: a read of `STATUS` gives its word, whose fields stand where R23 puts them. -/
theorem statusWordLayout : Obligations.StatusWordLayout := by
  intro s
  refine ⟨s.status.word, busRead_of_regs s (by decide) (by decide), ?_⟩
  refine ⟨s.status.getLsbD_word 0, s.status.getLsbD_word 1, s.status.getLsbD_word 2, s.status.getLsbD_word 3, ?_,
    s.status.getLsbD_word 8, fun k hk => ?_⟩
  · refine BitVec.eq_of_getLsbD_eq fun i hi => ?_
    rw [BitVec.getLsbD_extractLsb', Status.getLsbD_word]
    simp (disch := omega) only [if_neg, if_pos, Nat.add_sub_cancel_left, hi, decide_true, Bool.true_and]
  · rw [Status.getLsbD_word]
    simp (disch := omega) only [if_neg]

/-! ### Reserved table rows and unusable splits raise OutOfRange -/

/-- OutOfRange raised in the state as it was is OutOfRange that changes nothing else. -/
theorem endError_outOfRange (s : State) (b : Bool) : s.endError (outOfRange s b) = failed s 2 (errInfo 0 b s.bitpos) := rfl

section checks

variable {s : State} {ch : Ch}

theorem splitUsable_of_not_mixed (h : (s.chan ch).mixed = false) : splitUsable s ch = true := by
  simp [splitUsable, h]

theorem not_splitUsable (hm : (s.chan ch).mixed = true) (h : s.tablesOk = false ∨ s.splitOk = false) :
    splitUsable s ch = false := by
  obtain h | h := h <;> simp [splitUsable, hm, h]

/-- The band tables cannot be used for the channel's block: the check of REQUANT, REORDER, HUFF fails. -/
def tablesUnusable (s : State) (ch : Ch) : Prop := s.tablesOk = false ∨ splitUsable s ch = false

theorem requantCheck_fails (h : tablesUnusable s ch) : requantCheck s ch = some (outOfRange s ch.isOne) := by
  obtain h | h := h <;> simp [requantCheck, h]

theorem reorderCheck_fails (h : tablesUnusable s ch) : reorderCheck s ch = some (outOfRange s ch.isOne) :=
  requantCheck_fails h

theorem huffCheck_fails (h : tablesUnusable s ch) : huffCheck s ch = some (outOfRange s ch.isOne) := by
  obtain h | h := h <;> simp [huffCheck, h]

theorem splitCheck_fails (h : splitUsable s ch = false) : splitCheck s ch = some (outOfRange s ch.isOne) := by
  simp [splitCheck, h]

theorem requantCheck_passes (ht : s.tablesOk = true) (h : splitUsable s ch = true) : requantCheck s ch = none := by
  simp [requantCheck, ht, h]

theorem splitCheck_passes (h : splitUsable s ch = true) : splitCheck s ch = none := by
  simp [splitCheck, h]

end checks

/-! The first channel of the set that fails ends the command. -/

section perChannel

variable {check : State → Ch → Option CmdError} {s : State} {all : Bool} {ch : Ch} {e : CmdError}
  (effect : State → Ch → State)

/-- A legal channel set begins with the operand's channel (30_encoding.md R81, R82). -/
theorem chans_eq_cons (hl : channelsLegal s all ch = true) : ∃ rest, chans s all ch = ch :: rest := by
  cases all with
  | false => exact ⟨[], rfl⟩
  | true =>
    cases ch with
    | c0 => by_cases h : s.chMode = 3 <;> simp [chans, State.channels, h]
    | c1 => exact absurd hl (by simp [channelsLegal, Ch.isOne])

theorem channelsLegal_all (s : State) : channelsLegal s true .c0 = true := by
  by_cases h : s.chMode = 3 <;> simp [channelsLegal, chans, State.channels, State.nch, Ch.isOne, h]

theorem perChannel_first_fails (hl : channelsLegal s all ch = true) (he : check s ch = some e) :
    perChannel check effect all ch s = .err e s := by
  obtain ⟨rest, hrest⟩ := chans_eq_cons hl
  simp [perChannel, hl, hrest, he]

theorem perChannel_second_fails (hmode : s.chMode ≠ 3) (h0 : check s .c0 = none) (h1 : check s .c1 = some e) :
    perChannel check effect true .c0 s = .err e s := by
  simp [perChannel, channelsLegal_all, chans, State.channels, hmode, h0, h1]

end perChannel

section commands

variable {s : State} {all : Bool} {ch : Ch}

/-- The operand's channel fails its check: the error names it. -/
theorem exec_fails_of_first {i : Instr} {check : State → Ch → Option CmdError} {effect : State → Ch → State}
    (hi : commandBody i s = perChannel check effect all ch s) (hl : channelsLegal s all ch = true)
    (he : check s ch = some (outOfRange s ch.isOne)) : exec i s = .next (failed s 2 (errInfo 0 ch.isOne s.bitpos)) := by
  rw [exec_eq_finish, hi, perChannel_first_fails _ hl he, finish_err, endError_outOfRange]

theorem exec_huff_fails (hl : channelsLegal s false ch = true) (h : tablesUnusable s ch) :
    exec (.huff ch) s = .next (failed s 2 (errInfo 0 ch.isOne s.bitpos)) := by
  rw [exec_eq_finish, commandBody, if_pos hl, huffBody, huffCheck_fails h]
  rfl

/-- Channel 0 passes its check, channel 1 fails: the error names channel 1. -/
theorem exec_fails_of_second {i : Instr} {check : State → Ch → Option CmdError} {effect : State → Ch → State}
    (hi : commandBody i s = perChannel check effect true .c0 s) (hmode : s.chMode ≠ 3) (h0 : check s .c0 = none)
    (h1 : check s .c1 = some (outOfRange s true)) : exec i s = .next (failed s 2 (errInfo 0 true s.bitpos)) := by
  rw [exec_eq_finish, hi, perChannel_second_fails _ hmode h0 h1, finish_err, endError_outOfRange]

theorem exec_stereo_fails (hmode : s.chMode = 1) (h : stereoOutOfRange s = true) :
    ∃ b, exec .stereo s = .next { failed s 2 (errInfo 0 b s.bitpos) with draws := s.draws + 1 } := by
  refine ⟨Config.freeErrChannel s.draws, ?_⟩
  rw [exec_eq_finish, commandBody, stereoBody, if_neg (not_not.mpr hmode), if_pos h]
  rfl

end commands

/-! An error of BACKEND's first step ends it: the later steps do not run (44_control.md R213). -/

theorem backendFront_err (chs : List Ch) (e : CmdError) (s : State) : backendFront chs (.err e s) = .err e s :=
  List.foldl_fixed' (fun _ => rfl) chs

theorem backendBack_err (chs : List Ch) (e : CmdError) (s : State) : backendBack chs (.err e s) = .err e s :=
  List.foldl_fixed' (fun _ => rfl) chs

theorem channels_eq_cons (s : State) : ∃ rest, s.channels = .c0 :: rest := by
  unfold State.channels
  split
  · exact ⟨_, rfl⟩
  · exact ⟨_, rfl⟩

theorem exec_backend_fails {s : State} (h : tablesUnusable s .c0) :
    exec .backend s = .next (failed s 2 (errInfo 0 false s.bitpos)) := by
  obtain ⟨rest, hrest⟩ := channels_eq_cons s
  have hfirst : oneChannel requantCheck requantEffect .c0 s = .err (outOfRange s false) s := by
    rw [oneChannel, requantCheck_fails h]
    rfl
  have hfront : backendFront s.channels (.ok s) = .err (outOfRange s false) s := by
    rw [hrest, backendFront, List.foldl_cons, CmdResult.andThen, hfirst]
    exact backendFront_err rest _ s
  rw [exec_eq_finish, commandBody, backendBody, hfront, CmdResult.andThen, backendBack_err, finish_err,
    endError_outOfRange]

/-- Settles O40: in each case the named check is the first to fail. -/
theorem reservedTableRowsRaiseOutOfRange : Obligations.ReservedTableRowsRaiseOutOfRange := by
  refine ⟨fun s all ch hl ht => ?_, fun s ht => ?_, fun s ch hl ht hm hs => ?_, fun s ch hl hm h => ?_, fun s h => ?_,
    fun s ht hs => ?_⟩
  · have hunusable : tablesUnusable s ch := .inl ht
    refine ⟨exec_fails_of_first rfl hl (requantCheck_fails hunusable),
      exec_fails_of_first rfl hl (reorderCheck_fails hunusable), ?_⟩
    rintro rfl
    exact exec_huff_fails hl hunusable
  · exact ⟨exec_backend_fails (.inl ht), fun hmode => exec_stereo_fails hmode (by simp [stereoOutOfRange, ht])⟩
  · have hunusable : tablesUnusable s ch := .inr (not_splitUsable hm (.inr hs))
    exact ⟨exec_huff_fails hl hunusable, exec_fails_of_first rfl hl (requantCheck_fails hunusable),
      exec_fails_of_first rfl hl (reorderCheck_fails hunusable)⟩
  · have hfail := splitCheck_fails (not_splitUsable hm h)
    exact ⟨exec_fails_of_first rfl hl hfail, exec_fails_of_first rfl hl hfail⟩
  · have hl := channelsLegal_all s
    refine ⟨fun hm => ?_, fun hmode h0 h1 => ?_⟩
    · have hfail := splitCheck_fails (not_splitUsable (ch := .c0) hm h)
      exact ⟨exec_fails_of_first (ch := .c0) rfl hl hfail, exec_fails_of_first (ch := .c0) rfl hl hfail⟩
    · have hpass := splitCheck_passes (splitUsable_of_not_mixed (ch := .c0) h0)
      have hfail := splitCheck_fails (not_splitUsable (ch := .c1) h1 h)
      exact ⟨exec_fails_of_second rfl hmode hpass hfail, exec_fails_of_second rfl hmode hpass hfail⟩
  · have hl := channelsLegal_all s
    refine ⟨fun hm => ?_, fun hmode h0 h1 => ?_, fun hmode hm => exec_stereo_fails hmode ?_⟩
    · have hunusable : tablesUnusable s .c0 := .inr (not_splitUsable hm (.inr hs))
      exact ⟨exec_fails_of_first (ch := .c0) rfl hl (requantCheck_fails hunusable),
        exec_fails_of_first (ch := .c0) rfl hl (reorderCheck_fails hunusable), exec_backend_fails hunusable⟩
    · have hpass : requantCheck s .c0 = none := requantCheck_passes ht (splitUsable_of_not_mixed h0)
      have hfail : requantCheck s .c1 = some (outOfRange s true) :=
        requantCheck_fails (.inr (not_splitUsable h1 (.inr hs)))
      exact ⟨exec_fails_of_second rfl hmode hpass hfail,
        exec_fails_of_second (check := reorderCheck) rfl hmode hpass hfail⟩
    · obtain hm | hm := hm
      · simp [stereoOutOfRange, not_splitUsable (ch := .c0) hm (.inr hs)]
      · simp [stereoOutOfRange, not_splitUsable (ch := .c1) hm (.inr hs)]

end Sys2Proof.Machine

/-! ## Writes of the RAMs

A byte written at an offset that stores it is the byte read there, and no other byte of the address space changes. -/

namespace Sys2Proof.Machine

open Claims

/-! ### The two bytes of a halfword -/

theorem halfByte_setHalfByte_same (h : Half) {k : Nat} (hk : k < 2) (b : Byte) : halfByte (setHalfByte h k b) k = b := by
  obtain rfl | rfl : k = 0 ∨ k = 1 := by omega
  · exact BitVec.extractLsb'_append_eq_right
  · exact BitVec.extractLsb'_append_eq_left

theorem halfByte_setHalfByte_of_ne (h : Half) {j k : Nat} (hj : j < 2) (hk : k < 2) (hjk : j ≠ k) (b : Byte) :
    halfByte (setHalfByte h k b) j = halfByte h j := by
  obtain ⟨rfl, rfl⟩ | ⟨rfl, rfl⟩ : (j = 0 ∧ k = 1) ∨ (j = 1 ∧ k = 0) := by omega
  · exact BitVec.extractLsb'_append_eq_right
  · exact BitVec.extractLsb'_append_eq_left

/-! ### Replacing `SF` or `ISI` of a channel -/

/-- Replace `SF[ch]` (10_state.md R33). -/
def State.setSf (s : State) (ch : Ch) (v : Vector Byte 58) : State := s.setChan ch { s.chan ch with sf := v }

/-- Replace `ISI[ch]` (10_state.md R36). -/
def State.setIsi (s : State) (ch : Ch) (v : Vector Half 576) : State := s.setChan ch { s.chan ch with isi := v }

variable {s : State} {a : Nat}

theorem readReg_setSf (ch : Ch) (v : Vector Byte 58) (b : Nat) : (s.setSf ch v).readReg b = s.readReg b := by
  cases ch <;> rfl

theorem readReg_setIsi (ch : Ch) (v : Vector Half 576) (b : Nat) : (s.setIsi ch v).readReg b = s.readReg b := by
  cases ch <;> rfl

theorem isi_setSf (ch ch' : Ch) (v : Vector Byte 58) : ((s.setSf ch v).chan ch').isi = (s.chan ch').isi := by
  cases ch <;> cases ch' <;> rfl

theorem sf_setIsi (ch ch' : Ch) (v : Vector Half 576) : ((s.setIsi ch v).chan ch').sf = (s.chan ch').sf := by
  cases ch <;> cases ch' <;> rfl

theorem mdByte_setSf (ch : Ch) (v : Vector Byte 58) (k : Nat) : (s.setSf ch v).mdByte k = s.mdByte k :=
  mdByte_congr (s.setChan_mem ch _) (s.setChan_mdDraw ch _) k

theorem mdByte_setIsi (ch : Ch) (v : Vector Half 576) (k : Nat) : (s.setIsi ch v).mdByte k = s.mdByte k :=
  mdByte_congr (s.setChan_mem ch _) (s.setChan_mdDraw ch _) k

theorem pcm_setSf (ch : Ch) (v : Vector Byte 58) : (s.setSf ch v).pcm = s.pcm := s.setChan_pcm ch _

theorem pcm_setIsi (ch : Ch) (v : Vector Half 576) : (s.setIsi ch v).pcm = s.pcm := s.setChan_pcm ch _

theorem hostByte_setSf_outside (h : regionOf a ≠ .sf) (ch : Ch) (v : Vector Byte 58) :
    (s.setSf ch v).hostByte a = s.hostByte a :=
  hostByte_congr (fun _ => readReg_setSf ch v _) (fun hr => absurd hr h) (fun _ => mdByte_setSf ch v _)
    (fun _ => pcm_setSf ch v) (fun _ => isi_setSf ch _ v)

theorem hostByte_setIsi_outside (h : regionOf a ≠ .isi) (ch : Ch) (v : Vector Half 576) :
    (s.setIsi ch v).hostByte a = s.hostByte a :=
  hostByte_congr (fun _ => readReg_setIsi ch v _) (fun _ => sf_setIsi ch _ v) (fun _ => mdByte_setIsi ch v _)
    (fun _ => pcm_setIsi ch v) (fun hr => absurd hr h)

theorem hostByte_setMem_outside (h : regionOf a ≠ .md) (m : Memory) :
    State.hostByte { s with mem := m } a = s.hostByte a :=
  hostByte_congr (fun _ => rfl) (fun _ => by cases sfChannel a <;> rfl) (fun hr => absurd hr h) (fun _ => rfl)
    (fun _ => by cases isiChannel a <;> rfl)

/-! ### One byte -/

theorem bounds_of_regionOf_sf (h : regionOf a = .sf) : 0x100 ≤ a ∧ a < 0x180 := by
  unfold regionOf at h
  split_ifs at h with h1 h2
  exact ⟨Nat.not_lt.mp h1, h2⟩

theorem bounds_of_regionOf_isi (h : regionOf a = .isi) : 0x3000 ≤ a ∧ a < 0x3900 := by
  unfold regionOf at h
  split_ifs at h with _ _ _ _ hisi
  exact hisi

theorem writeByte_of_sf (h : regionOf a = .sf) (b : Byte) :
    s.writeByte a b = s.setSf (sfChannel a) (put (s.chan (sfChannel a)).sf ((a - 0x100) % 0x40) b) := by
  simp only [State.writeByte, h, State.setSf]

theorem writeByte_of_md (h : regionOf a = .md) (b : Byte) : s.writeByte a b = { s with mem := s.mem.insert a b } := by
  simp only [State.writeByte, h]

theorem writeByte_of_isi (h : regionOf a = .isi) (b : Byte) :
    s.writeByte a b =
      s.setIsi (isiChannel a)
        (put (s.chan (isiChannel a)).isi (isiIndex a)
          (setHalfByte (look (s.chan (isiChannel a)).isi (isiIndex a) 0) (a % 2) b)) := by
  simp only [State.writeByte, h, State.setIsi]

/-- The regions whose offsets ignore a byte write (20_memory.md R70). -/
def Region.readOnly (r : Region) : Prop := r = .regs ∨ r = .pcm ∨ r = .reserved

theorem writeByte_of_readOnly (h : (regionOf a).readOnly) (b : Byte) : s.writeByte a b = s := by
  obtain h | h | h := h <;> simp only [State.writeByte, h]

/-- The offsets that store a byte written to them: those of `MD`, `ISI` and the bytes 0 to 57 of `SF` (10_state.md R33). -/
def storesByte (a : Nat) : Prop :=
  regionOf a = .md ∨ regionOf a = .isi ∨ (regionOf a = .sf ∧ (a - 0x100) % 0x40 < 58)

theorem hostByte_writeByte_same (h : storesByte a) (b : Byte) : (s.writeByte a b).hostByte a = b := by
  obtain hr | hr | ⟨hr, hlt⟩ := h
  · obtain ⟨lo, -⟩ := bounds_of_regionOf_md hr
    have hkey : 0x1000 + (a - 0x1000) = a := by omega
    rw [writeByte_of_md hr, hostByte_of_md hr, State.mdByte, hkey, Memory.find_insert_same]
    rfl
  · obtain ⟨lo, hi⟩ := bounds_of_regionOf_isi hr
    have hidx : isiIndex a < 576 := by unfold isiIndex; omega
    rw [writeByte_of_isi hr, hostByte_of_isi hr, State.setIsi, State.chan_setChan_same, look_put_same _ _ _ hidx,
      halfByte_setHalfByte_same _ (by omega)]
  · rw [writeByte_of_sf hr, hostByte_of_sf hr, State.setSf, State.chan_setChan_same, look_put_same _ _ _ hlt]

/-- A byte of `SF` keeps its value when another byte of `SF` is written. -/
theorem hostByte_writeByte_sf_sf {a' : Nat} (hr : regionOf a = .sf) (hr' : regionOf a' = .sf) (hne : a' ≠ a) (b : Byte) :
    (s.writeByte a b).hostByte a' = s.hostByte a' := by
  obtain ⟨lo, hi⟩ := bounds_of_regionOf_sf hr
  obtain ⟨lo', hi'⟩ := bounds_of_regionOf_sf hr'
  rw [writeByte_of_sf hr, hostByte_of_sf hr', hostByte_of_sf hr', State.setSf]
  by_cases hch : sfChannel a' = sfChannel a
  · have hidx : (a - 0x100) % 0x40 ≠ (a' - 0x100) % 0x40 := by
      unfold sfChannel at hch
      split_ifs at hch <;> omega
    rw [hch, State.chan_setChan_same, look_put_of_ne _ _ _ hidx]
  · rw [State.chan_setChan_of_ne _ hch]

/-- A byte of `ISI` keeps its value when another byte of `ISI`, of the same line or not, is written. -/
theorem hostByte_writeByte_isi_isi {a' : Nat} (hr : regionOf a = .isi) (hr' : regionOf a' = .isi) (hne : a' ≠ a)
    (b : Byte) : (s.writeByte a b).hostByte a' = s.hostByte a' := by
  obtain ⟨lo, hi⟩ := bounds_of_regionOf_isi hr
  obtain ⟨lo', hi'⟩ := bounds_of_regionOf_isi hr'
  rw [writeByte_of_isi hr, hostByte_of_isi hr', hostByte_of_isi hr', State.setIsi]
  by_cases hch : isiChannel a' = isiChannel a
  · rw [hch, State.chan_setChan_same]
    by_cases hidx : isiIndex a = isiIndex a'
    · have hlt : isiIndex a' < 576 := by unfold isiIndex; omega
      have hodd : a' % 2 ≠ a % 2 := by
        unfold isiChannel at hch
        unfold isiIndex at hidx
        split_ifs at hch <;> omega
      rw [hidx, look_put_same _ _ _ hlt, halfByte_setHalfByte_of_ne _ (by omega) (by omega) hodd]
    · rw [look_put_of_ne _ _ _ hidx]
  · rw [State.chan_setChan_of_ne _ hch]

/-- A byte of `MD` keeps its value when another byte of `MD` is written. -/
theorem hostByte_writeByte_md_md {a' : Nat} (hr : regionOf a = .md) (hr' : regionOf a' = .md) (hne : a' ≠ a) (b : Byte) :
    (s.writeByte a b).hostByte a' = s.hostByte a' := by
  obtain ⟨lo', -⟩ := bounds_of_regionOf_md hr'
  have hkey : 0x1000 + (a' - 0x1000) = a' := by omega
  rw [writeByte_of_md hr, hostByte_of_md hr', hostByte_of_md hr', State.mdByte, State.mdByte, hkey,
    Memory.find_insert_of_ne _ hne]

theorem hostByte_writeByte_of_ne {a' : Nat} (hne : a' ≠ a) (b : Byte) :
    (s.writeByte a b).hostByte a' = s.hostByte a' := by
  cases hr : regionOf a with
  | sf =>
    by_cases hr' : regionOf a' = .sf
    · exact hostByte_writeByte_sf_sf hr hr' hne b
    · rw [writeByte_of_sf hr, hostByte_setSf_outside hr']
  | isi =>
    by_cases hr' : regionOf a' = .isi
    · exact hostByte_writeByte_isi_isi hr hr' hne b
    · rw [writeByte_of_isi hr, hostByte_setIsi_outside hr']
  | md =>
    by_cases hr' : regionOf a' = .md
    · exact hostByte_writeByte_md_md hr hr' hne b
    · rw [writeByte_of_md hr, hostByte_setMem_outside hr']
  | regs => rw [writeByte_of_readOnly (.inl hr)]
  | pcm => rw [writeByte_of_readOnly (.inr (.inl hr))]
  | reserved => rw [writeByte_of_readOnly (.inr (.inr hr))]

/-! ### The bytes of an access -/

theorem writeBytes_succ (s : State) (a n : Nat) (w : Word) :
    s.writeBytes a (n + 1) w = (s.writeBytes a n w).writeByte (a + n) (byteOf w n) := by
  simp [State.writeBytes, List.range_succ]

theorem hostByte_writeBytes_outside {a' n : Nat} (h : ¬ (a ≤ a' ∧ a' < a + n)) (w : Word) :
    (s.writeBytes a n w).hostByte a' = s.hostByte a' := by
  induction n with
  | zero => rfl
  | succ n ih => rw [writeBytes_succ, hostByte_writeByte_of_ne (by omega), ih (by omega)]

theorem hostByte_writeBytes_inside {k n : Nat} (hk : k < n) (h : storesByte (a + k)) (w : Word) :
    (s.writeBytes a n w).hostByte (a + k) = byteOf w k := by
  induction n with
  | zero => omega
  | succ n ih =>
    rw [writeBytes_succ]
    obtain rfl | hlt : k = n ∨ k < n := by omega
    · exact hostByte_writeByte_same h _
    · rw [hostByte_writeByte_of_ne (by omega), ih hlt]

theorem writeBytes_sameBytes (s : State) (a n : Nat) (w : Word) :
    SameBytes s (s.writeBytes a n w) (fun a' => a ≤ a' ∧ a' < a + n) :=
  fun _ h => hostByte_writeBytes_outside h w

/-- What every byte write of the access keeps, the access keeps. -/
theorem writeBytes_keeps {P : State → Prop} {n : Nat} {w : Word}
    (h : ∀ u k, P u → k < n → P (u.writeByte (a + k) (byteOf w k))) (hs : P s) : P (s.writeBytes a n w) :=
  List.foldlRecOn (motive := P) _ _ hs fun u hu k hk => h u k hu (List.mem_range.mp hk)

theorem writeBytes_of_readOnly {n : Nat} (h : ∀ k, k < n → (regionOf (a + k)).readOnly) (w : Word) :
    s.writeBytes a n w = s :=
  writeBytes_keeps (P := (· = s)) (fun u k hu hk => by rw [hu, writeByte_of_readOnly (h k hk)]) rfl

/-- An aligned access that begins below a multiple of 4 ends below it. -/
theorem Width.add_lt_of_aligned (w : Width) {off k bound : Nat} (hoff : off % w.bytes = 0) (hbound : bound % 4 = 0)
    (hlt : off < bound) (hk : k < w.bytes) : off + k < bound := by
  cases w <;> simp only [Width.bytes] at hoff hk <;> omega

theorem aligned_of_accessOk {w : Width} {off : Offset} (h : accessOk w off = true) : off.toNat % w.bytes = 0 := by
  simp only [accessOk, Bool.and_eq_true, decide_eq_true_eq] at h
  exact h.2

/-- A write outside the register space writes its bytes. -/
theorem access_write_ram {w : Width} {off : Offset} (h : 0x100 ≤ off.toNat) (s : State) (val : Word) :
    s.access (.write w off val) = s.writeBytes off.toNat w.bytes val := by
  have hr := regionOf_ne_regs h
  simp only [State.access, State.busWrite]
  split
  next hregs => exact absurd hregs hr
  all_goals rfl

/-! ### `PCM` -/

/-- Byte `k` of sample `d` (0 left, 1 right) of pair `n` (10_state.md R37). -/
theorem hostByte_pcm (s : State) {n d k : Nat} (hn : n < 576) (hd : d < 2) (hk : k < 2) :
    s.hostByte (0x2000 + 4 * n + 2 * d + k) = halfByte (if d = 0 then s.pcm[n].1 else s.pcm[n].2) k := by
  have hr : regionOf (0x2000 + 4 * n + 2 * d + k) = .pcm := regionOf_eq_pcm (by omega) (by omega)
  have hpair : (0x2000 + 4 * n + 2 * d + k - 0x2000) / 4 = n := by omega
  have hslot : (0x2000 + 4 * n + 2 * d + k - 0x2000) / 2 % 2 = d := by omega
  have hbyte : (0x2000 + 4 * n + 2 * d + k) % 2 = k := by omega
  rw [hostByte_of_pcm hr, hpair, hslot, hbyte, look_lt _ _ hn]

/-- Settles O27: the bytes of a pair of samples, and writes that store nothing. -/
theorem pcmLayoutAndReadOnly : Obligations.PcmLayoutAndReadOnly := by
  refine ⟨fun s n ch k hk => ?_, fun s w off val hok hpcm => ?_⟩
  · cases ch
    · exact hostByte_pcm s n.isLt (d := 0) (by decide) hk
    · exact hostByte_pcm s n.isLt (d := 1) (by decide) hk
  · obtain ⟨lo, hi⟩ := hpcm
    rw [access_write_ram (by omega)]
    refine writeBytes_of_readOnly (fun k hk => .inr (.inl (regionOf_eq_pcm (by omega) ?_))) val
    exact w.add_lt_of_aligned (aligned_of_accessOk hok) (by decide) hi hk

end Sys2Proof.Machine

/-! ## The `ISI` window (10_state.md R36) -/

namespace Sys2Proof.Machine

open Claims

/-- The offset of line `i` of `ISI[ch]`, its low byte. -/
def isiOffset (ch : Ch) (i : Nat) : Nat := 0x3000 + 0x480 * (if ch = .c1 then 1 else 0) + 2 * i

section offset

variable {ch : Ch} {i k : Nat}

theorem isiOffset_add (ch : Ch) (i j : Nat) : isiOffset ch (i + j) = isiOffset ch i + 2 * j := by
  unfold isiOffset
  omega

theorem isiOffset_bounds (hi : i < 576) (hk : k < 2) :
    0x3000 ≤ isiOffset ch i + k ∧ isiOffset ch i + k < 0x3900 := by
  cases ch <;> simp only [isiOffset, reduceCtorEq, if_true, if_false] <;> omega

theorem regionOf_isiOffset (hi : i < 576) (hk : k < 2) : regionOf (isiOffset ch i + k) = .isi :=
  regionOf_eq_isi (isiOffset_bounds hi hk).1 (isiOffset_bounds hi hk).2

theorem isiChannel_isiOffset (hi : i < 576) (hk : k < 2) : isiChannel (isiOffset ch i + k) = ch := by
  cases ch with
  | c0 => exact if_pos (by simp only [isiOffset, reduceCtorEq, if_false]; omega)
  | c1 => exact if_neg (by simp only [isiOffset, if_true]; omega)

theorem isiIndex_isiOffset (hi : i < 576) (hk : k < 2) : isiIndex (isiOffset ch i + k) = i := by
  cases ch <;> simp only [isiIndex, isiOffset, reduceCtorEq, if_true, if_false] <;> omega

theorem isiOffset_parity (hk : k < 2) : (isiOffset ch i + k) % 2 = k := by
  cases ch <;> simp only [isiOffset, reduceCtorEq, if_true, if_false] <;> omega

/-- Every offset of the bytes of lines `i` to `i + m` is a byte of one of these lines. -/
theorem regionOf_isi_range {m : Nat} (h : i + m ≤ 576) (hk : k < 2 * m) :
    regionOf (isiOffset ch i + k) = .isi ∧ isiChannel (isiOffset ch i + k) = ch := by
  have hline : isiOffset ch i + k = isiOffset ch (i + k / 2) + k % 2 := by
    rw [isiOffset_add]
    omega
  rw [hline]
  exact ⟨regionOf_isiOffset (by omega) (by omega), isiChannel_isiOffset (by omega) (by omega)⟩

end offset

variable {s : State} {ch : Ch}

/-- A byte of a line as the host reads it. -/
theorem hostByte_isiOffset {i k : Nat} (hi : i < 576) (hk : k < 2) :
    s.hostByte (isiOffset ch i + k) = halfByte (s.chan ch).isi[i] k := by
  rw [hostByte_of_isi (regionOf_isiOffset hi hk), isiChannel_isiOffset hi hk, isiIndex_isiOffset hi hk,
    isiOffset_parity hk, look_lt _ _ hi]

/-- A line is its two bytes. -/
theorem isi_eq_hostBytes (s : State) (ch : Ch) {i : Nat} (hi : i < 576) :
    (s.chan ch).isi[i] = s.hostByte (isiOffset ch i + 1) ++ s.hostByte (isiOffset ch i + 0) := by
  rw [hostByte_isiOffset hi (by decide), hostByte_isiOffset hi (by decide)]
  exact (BitVec.extractLsb'_append_extractLsb' (w := 8) (len := 8)).symm

/-- A bit of a read of the window is a bit of the line it falls in. -/
theorem getLsbD_busRead_isi {i m b : Nat} (h : i + m ≤ 576) (hb : b < 16 * m) (h32 : b < 32) :
    (s.busRead (isiOffset ch i) (2 * m)).getLsbD b = (look (s.chan ch).isi (i + b / 16) 0).getLsbD (b % 16) := by
  have hline : isiOffset ch i + b / 8 = isiOffset ch (i + b / 16) + b / 8 % 2 := by
    rw [isiOffset_add]
    omega
  have hi : i + b / 16 < 576 := by omega
  have hbit : 8 * (b / 8 % 2) + b % 8 = b % 16 := by omega
  rw [getLsbD_busRead _ _ _ h32, hline, hostByte_isiOffset hi (by omega), halfByte, BitVec.getLsbD_extractLsb', hbit,
    look_lt _ _ hi]
  simp [show b < 8 * (2 * m) by omega, show b % 8 < 8 by omega]

theorem busRead_isi_line {i : Nat} (hi : i < 576) :
    s.busRead (isiOffset ch i) 2 = (s.chan ch).isi[i].setWidth 32 := by
  refine BitVec.eq_of_getLsbD_eq fun b hb => ?_
  rw [BitVec.getLsbD_setWidth]
  by_cases hlow : b < 16
  · have hdiv : b / 16 = 0 := by omega
    have hmod : b % 16 = b := by omega
    rw [getLsbD_busRead_isi (m := 1) (by omega) (by omega) hb, hdiv, hmod, look_lt _ _ (by omega)]
    simp [hb]
  · have hout : (s.chan ch).isi[i].getLsbD b = false := BitVec.getLsbD_of_ge _ _ (by omega)
    rw [getLsbD_busRead _ _ _ hb, hout]
    simp [show ¬ b < 8 * 2 by omega]

theorem busRead_isi_pair {i : Nat} (hi : i + 2 ≤ 576) :
    s.busRead (isiOffset ch i) 4 = look (s.chan ch).isi (i + 1) 0 ++ look (s.chan ch).isi i 0 := by
  refine BitVec.eq_of_getLsbD_eq fun b hb => ?_
  rw [getLsbD_busRead_isi (m := 2) hi (by omega) hb, BitVec.getLsbD_append]
  by_cases hlow : b < 16
  · have hdiv : b / 16 = 0 := by omega
    have hmod : b % 16 = b := by omega
    rw [if_pos hlow, hdiv, hmod, Nat.add_zero]
  · have hdiv : b / 16 = 1 := by omega
    have hmod : b % 16 = b - 16 := by omega
    rw [if_neg hlow, hdiv, hmod]

theorem setIsi_setIsi (ch : Ch) (v v' : Vector Half 576) : (s.setIsi ch v).setIsi ch v' = s.setIsi ch v' := by
  cases ch <;> rfl

theorem isi_setIsi (ch : Ch) (v : Vector Half 576) : ((s.setIsi ch v).chan ch).isi = v := by
  cases ch <;> rfl

/-- A write of the window changes `ISI` of its channel only. -/
theorem writeBytes_isi_frame {i m : Nat} (h : i + m ≤ 576) (val : Word) :
    s.writeBytes (isiOffset ch i) (2 * m) val =
      s.setIsi ch ((s.writeBytes (isiOffset ch i) (2 * m) val).chan ch).isi := by
  have hset : ∃ v, s.writeBytes (isiOffset ch i) (2 * m) val = s.setIsi ch v := by
    refine writeBytes_keeps (P := fun u => ∃ v, u = s.setIsi ch v) ?_ ⟨(s.chan ch).isi, (s.setChan_self ch).symm⟩
    rintro u k ⟨v, rfl⟩ hk
    obtain ⟨hr, hch⟩ := regionOf_isi_range (ch := ch) h hk
    rw [writeByte_of_isi hr, hch]
    exact ⟨_, setIsi_setIsi ch v _⟩
  obtain ⟨v, hv⟩ := hset
  rw [hv, isi_setIsi]

/-- The lines after a write of lines `i` to `i + m`. -/
theorem writeBytes_isi_line {i m j : Nat} (h : i + m ≤ 576) (hj : j < 576) (val : Word) :
    ((s.writeBytes (isiOffset ch i) (2 * m) val).chan ch).isi[j] =
      if i ≤ j ∧ j < i + m then val.extractLsb' (16 * (j - i)) 16 else (s.chan ch).isi[j] := by
  rw [isi_eq_hostBytes _ ch hj]
  split
  case isTrue hin =>
    obtain ⟨d, rfl⟩ := Nat.exists_eq_add_of_le hin.1
    have hbyte {k : Nat} (hk : k < 2) :
        (s.writeBytes (isiOffset ch i) (2 * m) val).hostByte (isiOffset ch (i + d) + k) = byteOf val (2 * d + k) := by
      rw [isiOffset_add, Nat.add_assoc]
      have hstores := (regionOf_isi_range (ch := ch) (k := 2 * d + k) h (by omega)).1
      exact hostByte_writeBytes_inside (by omega) (.inr (.inl hstores)) val
    rw [hbyte (by decide), hbyte (by decide), byteOf, byteOf, Nat.add_sub_cancel_left,
      BitVec.extractLsb'_append_extractLsb'_eq_extractLsb' (by omega)]
    congr 1
    omega
  case isFalse hout =>
    have hbyte {k : Nat} (hk : k < 2) :
        (s.writeBytes (isiOffset ch i) (2 * m) val).hostByte (isiOffset ch j + k) = s.hostByte (isiOffset ch j + k) := by
      refine hostByte_writeBytes_outside ?_ val
      unfold isiOffset
      omega
    rw [hbyte (by decide), hbyte (by decide), ← isi_eq_hostBytes s ch hj]

/-- Settles O26: both widths read and write whole lines of the window. -/
theorem spectrumWindowHalfwords : Obligations.SpectrumWindowHalfwords := by
  refine ⟨fun s ch j val off hoff => ?_, fun s ch i val off hoff => ?_⟩
  · have hpair : 2 * j.val + 2 ≤ 576 := by omega
    have hoffset : off.toNat = isiOffset ch (2 * j.val) := by
      unfold isiOffset
      omega
    have hwrite : s.access (.write .word off val) = s.writeBytes (isiOffset ch (2 * j.val)) 4 val := by
      rw [access_write_ram (by omega), hoffset]
      rfl
    rw [hwrite, hoffset]
    refine ⟨busRead_isi_pair hpair, _, rfl, writeBytes_isi_frame (m := 2) hpair val, fun i => ?_,
      writeBytes_sameBytes s _ _ val⟩
    refine (writeBytes_isi_line (m := 2) hpair i.isLt val).trans ?_
    obtain h | h | h : i.val = 2 * j.val ∨ i.val = 2 * j.val + 1 ∨ ¬ (2 * j.val ≤ i.val ∧ i.val < 2 * j.val + 2) := by
      omega
    · rw [if_pos (by omega), if_pos h, h, Nat.sub_self]
    · rw [if_pos (by omega), if_neg (by omega), if_pos h, h, Nat.add_sub_cancel_left]
    · rw [if_neg h, if_neg (by omega), if_neg (by omega)]
      rfl
  · have hoffset : off.toNat = isiOffset ch i.val := hoff
    have hwrite : s.access (.write .half off val) = s.writeBytes (isiOffset ch i.val) 2 val := by
      rw [access_write_ram (by omega), hoffset]
      rfl
    rw [hwrite, hoffset]
    refine ⟨busRead_isi_line i.isLt, _, rfl, writeBytes_isi_frame (m := 1) (by omega) val, ?_, fun j hj => ?_,
      writeBytes_sameBytes s _ _ val⟩
    · refine (writeBytes_isi_line (m := 1) (by omega) i.isLt val).trans ?_
      rw [if_pos (by omega), Nat.sub_self]
    · refine (writeBytes_isi_line (m := 1) (by omega) j.isLt val).trans ?_
      rw [if_neg (by omega)]
      rfl

end Sys2Proof.Machine

/-! ## Registers and the `SF` RAM read back what they keep -/

namespace Sys2Proof.Machine

open Claims

/-! ### Masks -/

/-- The low `n` bits of a word. -/
theorem setWidth_extractLsb'_low (w : Word) (n : Nat) :
    (w.extractLsb' 0 n).setWidth 32 = w &&& BitVec.ofNat 32 (2 ^ n - 1) := by
  refine BitVec.eq_of_getLsbD_eq fun i hi => ?_
  simp only [BitVec.getLsbD_setWidth, BitVec.getLsbD_extractLsb', BitVec.getLsbD_and, BitVec.getLsbD_ofNat,
    Nat.testBit_two_pow_sub_one, hi, decide_true, Bool.true_and, Nat.zero_add]
  exact Bool.and_comm _ _

theorem toNat_extractLsb'_low (w : Word) {n : Nat} (hn : n ≤ 32) :
    (w.extractLsb' 0 n).toNat = (w &&& BitVec.ofNat 32 (2 ^ n - 1)).toNat := by
  rw [← setWidth_extractLsb'_low, BitVec.toNat_setWidth_of_le hn]

/-- `MD_LEN` keeps at most 4096 (10_state.md R27; log 26). -/
theorem setWidth_clampMdLen (w : Word) :
    (clampMdLen w).setWidth 32 = if 4096 < (w &&& 0x00001FFF).toNat then 4096 else w &&& 0x00001FFF := by
  have hlow := setWidth_extractLsb'_low w 13
  have hnat := toNat_extractLsb'_low w (n := 13) (by decide)
  unfold clampMdLen
  rw [hnat]
  split
  case isTrue h => exact (if_pos h).symm
  case isFalse h => exact hlow.trans (if_neg h).symm

/-- The fields of `GCD3` in the word the host reads (10_state.md R32). -/
theorem Channel.getLsbD_gcd3 (c : Channel) (k : Nat) :
    c.gcd3.getLsbD k =
      if k < 15 then c.part2Start.getLsbD k else if 16 ≤ k then c.count1.getLsbD (k - 16) else false := by
  simp only [Channel.gcd3, BitVec.getLsbD_append]
  obtain hk | rfl | hk : k < 15 ∨ k = 15 ∨ 16 ≤ k := by omega
  · simp (disch := omega) only [if_pos]
  · rfl
  · obtain hlow | hhigh : k < 26 ∨ 26 ≤ k := by omega
    · simp (disch := omega) only [if_pos, if_neg]
      rfl
    · have hout : c.count1.getLsbD (k - 16) = false := BitVec.getLsbD_of_ge _ _ (by omega)
      simp (disch := omega) only [if_pos, if_neg, hout]
      simp

/-- A write of `GCD3` keeps `COUNT1` (10_state.md R32). -/
theorem Channel.gcd3_write (c : Channel) (w : Word) :
    { c with part2Start := w.extractLsb' 0 15 }.gcd3 = (w &&& 0x00007FFF) ||| (c.gcd3 &&& 0x03FF0000) := by
  have hmask : ∀ i < 32, (0x03FF0000 : Word).getLsbD i = (decide (16 ≤ i) && decide (i < 26)) := by decide
  refine BitVec.eq_of_getLsbD_eq fun i hi => ?_
  have hlow : (w &&& 0x00007FFF).getLsbD i = (decide (i < 15) && w.getLsbD i) := by
    have hbits := congrArg (BitVec.getLsbD · i) (setWidth_extractLsb'_low w 15)
    simpa [hi] using hbits.symm
  rw [BitVec.getLsbD_or, hlow, BitVec.getLsbD_and, Channel.getLsbD_gcd3, Channel.getLsbD_gcd3, hmask i hi,
    BitVec.getLsbD_extractLsb', Nat.zero_add]
  obtain hk | rfl | hk | hk : i < 15 ∨ i = 15 ∨ (16 ≤ i ∧ i < 26) ∨ 26 ≤ i := by omega
  · simp [hk, show ¬ 16 ≤ i by omega]
  · rfl
  · simp [hk, show ¬ i < 15 by omega]
  · have hout : c.count1.getLsbD (i - 16) = false := BitVec.getLsbD_of_ge _ _ (by omega)
    simp [hout, show ¬ i < 15 by omega, show ¬ i < 26 by omega]

/-! ### Registers with an effect of their own -/

theorem writeCtrl_of_reset (s : State) {w : Word} (h : w.getLsbD 1 = true) : s.writeCtrl w = s.softReset := if_pos h

theorem writeCtrl_of_no_reset (s : State) {w : Word} (h : w.getLsbD 1 = false) :
    s.writeCtrl w = { s with irqEn := w.getLsbD 0 } := if_neg (ne_true_of_eq_false h)

theorem readCtrl_writeCtrl (s : State) (w : Word) :
    (s.writeCtrl w).readReg 0x000 = if w.getLsbD 1 then 0 else w &&& 0x00000001 := by
  cases h : w.getLsbD 1 with
  | true =>
    rw [writeCtrl_of_reset s h]
    exact show (0 : BitVec 31) ++ BitVec.ofBool false = 0 by decide
  | false =>
    rw [writeCtrl_of_no_reset s h]
    refine Eq.trans ?_ (setWidth_extractLsb'_low w 1)
    refine BitVec.eq_of_getLsbD_eq fun i hi => ?_
    have hread : State.readReg { s with irqEn := w.getLsbD 0 } 0x000 = (0 : BitVec 31) ++ BitVec.ofBool (w.getLsbD 0) := rfl
    rw [hread, BitVec.getLsbD_append, BitVec.getLsbD_ofBool, BitVec.getLsbD_setWidth,
      BitVec.getLsbD_extractLsb']
    obtain rfl | hpos : i = 0 ∨ 1 ≤ i := by omega
    · simp
    · simp [show ¬ i < 1 by omega]

theorem readCmd_writeCmd (s : State) (w : Word) :
    (s.access (.write .word 0x008 w)).readReg 0x008 = if s.status.busy then s.cmd else w := by
  rw [access_writeCmd]
  split <;> rfl

/-! ### `ERRINFO` -/

/-- The fields of `ERRINFO` in the word the host reads (10_state.md R25). -/
theorem errInfo_fields (pos : BitVec 10) (ch : Bool) (bitpos : BitVec 15) :
    ((errInfo pos ch bitpos).setWidth 32).extractLsb' 0 15 = bitpos ∧
    ((errInfo pos ch bitpos).setWidth 32).getLsbD 15 = ch ∧
    ((errInfo pos ch bitpos).setWidth 32).extractLsb' 16 10 = pos ∧
    ((errInfo pos ch bitpos).setWidth 32).extractLsb' 26 6 = 0 := by
  refine ⟨?_, ?_, ?_, ?_⟩
  · rw [BitVec.extractLsb'_setWidth_of_le (by decide)]
    exact BitVec.extractLsb'_append_eq_right
  · rw [BitVec.getLsbD_setWidth, errInfo, BitVec.getLsbD_append, BitVec.getLsbD_append]
    simp
  · rw [BitVec.extractLsb'_setWidth_of_le (by decide), errInfo, BitVec.extractLsb'_append_eq_of_le (by decide)]
    exact BitVec.extractLsb'_append_eq_left
  · refine BitVec.eq_of_getLsbD_eq fun i hi => ?_
    rw [BitVec.getLsbD_extractLsb', BitVec.getLsbD_setWidth, BitVec.getLsbD_of_ge (errInfo pos ch bitpos) _ (by omega)]
    simp

/-! ### Registers without an effect of their own -/

/-- The state with the host's registers of `t`: the cursor, `MD_LEN`, `CFG`, `GCD0` to `GCD3` but `COUNT1`, `ISILL_*`. -/
def State.withRegisters (s t : State) : State :=
  { s with
    bitpos := t.bitpos, mdLen := t.mdLen, cfg := t.cfg, isillL := t.isillL, isillS := t.isillS
    chan0 :=
      { s.chan0 with
        gcd0 := t.chan0.gcd0, gcd1 := t.chan0.gcd1, gcd2 := t.chan0.gcd2, part2Start := t.chan0.part2Start }
    chan1 :=
      { s.chan1 with
        gcd0 := t.chan1.gcd0, gcd1 := t.chan1.gcd1, gcd2 := t.chan1.gcd2, part2Start := t.chan1.part2Start } }

theorem plainRegisters_bounds :
    ∀ off ∈ plainRegisters, off.toNat < 0x100 ∧ off.toNat % 4 = 0 ∧ off.toNat ∉ [0x000, 0x004, 0x008] := by
  simp [plainRegisters]

/-- A write of the register space writes the register. -/
theorem access_write_reg {off : Offset} (h : off.toNat < 0x100) (s : State) (w : Word) :
    s.access (.write .word off w) = s.writeReg off.toNat w := by
  simp only [State.access, State.busWrite, regionOf_eq_regs h]

section plain

variable {a : Nat} (ha : a ∉ [0x000, 0x004, 0x008])

include ha

/-- A register other than `CTRL`, `STATUS` and `CMD` has no effect of its own. -/
theorem eq_withRegisters_of_writeReg {s t : State} {w : Word} (ht : s.writeReg a w = t) : t = s.withRegisters t := by
  unfold State.writeReg at ht
  split at ht
  case h_1 | h_2 | h_3 => exact absurd ha (by decide)
  all_goals
    subst ht
    rfl

/-- The write of a register against the read of another: they speak of different fields, or of different elements of
`ISILL_S`. -/
theorem readReg_writeReg_of_ne (s : State) (w : Word) {b : Nat} (hb : b ≠ a) : (s.writeReg a w).readReg b = s.readReg b := by
  unfold State.writeReg
  split
  case h_1 | h_2 | h_3 => exact absurd ha (by decide)
  all_goals
    unfold State.readReg
    split
    all_goals first
      | rfl
      | exact absurd rfl hb
      | exact congrArg (BitVec.setWidth 32) (look_put_of_ne _ _ _ (by decide))

end plain

/-- A write of a register without an effect of its own changes the register's bytes only. -/
theorem access_plain_register (s : State) {off : Offset} (w : Word) (h : off ∈ plainRegisters) :
    ∃ t, s.access (.write .word off w) = t ∧ t = s.withRegisters t ∧
      SameBytes s t (fun a => off.toNat ≤ a ∧ a < off.toNat + 4) := by
  obtain ⟨hlt, halign, heffect⟩ := plainRegisters_bounds off h
  have hframe := eq_withRegisters_of_writeReg heffect (s := s) (w := w) rfl
  refine ⟨_, access_write_reg hlt s w, hframe, fun a ha => ?_⟩
  refine hostByte_congr (fun _ => readReg_writeReg_of_ne heffect s w (by omega)) (fun _ => ?_) (fun _ => ?_) (fun _ => ?_)
    (fun _ => ?_)
  · rw [hframe]
    cases sfChannel a <;> rfl
  · rw [hframe]
    rfl
  · rw [hframe]
    rfl
  · rw [hframe]
    cases isiChannel a <;> rfl

/-! ### Reserved offsets -/

theorem readReg_reserved (s : State) {a : Nat} (h : (0x01C ≤ a ∧ a < 0x020) ∨ 0x050 ≤ a) : s.readReg a = 0 := by
  unfold State.readReg
  split
  case h_20 => rfl
  all_goals omega

theorem writeReg_reserved (s : State) {a : Nat} (h : (0x01C ≤ a ∧ a < 0x020) ∨ 0x050 ≤ a) (w : Word) :
    s.writeReg a w = s := by
  unfold State.writeReg
  split
  case h_19 => rfl
  all_goals omega

theorem busRead_eq_zero (s : State) {a n : Nat} (h : ∀ k, k < n → s.hostByte (a + k) = 0) : s.busRead a n = 0 := by
  refine BitVec.eq_of_getLsbD_eq fun i hi => ?_
  rw [getLsbD_busRead s a n hi]
  by_cases hin : i < 8 * n
  · rw [h (i / 8) (by omega)]
    simp
  · simp [hin]

theorem word_of_accessOk_regs {w : Width} {off : Offset} (h : accessOk w off = true) (hlt : off.toNat < 0x100) :
    w = .word := by
  rw [accessOk, regionOf_eq_regs hlt] at h
  cases w with
  | word => rfl
  | _ => exact absurd h (by simp [widthOk])

/-- A reserved offset of the register space ignores a write and reads 0. -/
theorem access_reserved_reg (s : State) {w : Width} {off : Offset} (val : Word) (hok : accessOk w off = true)
    (h : (0x01C ≤ off.toNat ∧ off.toNat < 0x020) ∨ 0x050 ≤ off.toNat) (hlt : off.toNat < 0x100) :
    s.access (.write w off val) = s ∧ s.busRead off.toNat w.bytes = 0 := by
  obtain rfl := word_of_accessOk_regs hok hlt
  refine ⟨?_, ?_⟩
  · rw [access_write_reg hlt, writeReg_reserved s h]
  · exact (busRead_of_regs s hlt (aligned_of_accessOk hok)).trans (readReg_reserved s h)

/-- A reserved offset outside the register space ignores a write and reads 0. -/
theorem access_reserved_ram (s : State) {w : Width} {off : Offset} (val : Word) (hlo : 0x100 ≤ off.toNat)
    (h : ∀ k, k < w.bytes → regionOf (off.toNat + k) = .reserved) :
    s.access (.write w off val) = s ∧ s.busRead off.toNat w.bytes = 0 := by
  refine ⟨?_, ?_⟩
  · rw [access_write_ram hlo]
    exact writeBytes_of_readOnly (fun k hk => .inr (.inr (h k hk))) val
  · exact busRead_eq_zero s fun k hk => hostByte_of_reserved (h k hk)

theorem access_reserved (s : State) {w : Width} {off : Offset} (val : Word) (hok : accessOk w off = true)
    (h : reservedOffset off.toNat) : s.access (.write w off val) = s ∧ s.busRead off.toNat w.bytes = 0 := by
  have haligned := aligned_of_accessOk hok
  have hbelow {k bound : Nat} := w.add_lt_of_aligned (off := off.toNat) (k := k) (bound := bound) haligned
  obtain h | ⟨lo, hi⟩ | ⟨lo, hi⟩ | ⟨lo, hi⟩ | lo := h
  · exact access_reserved_reg s val hok (.inl h) (by omega)
  · exact access_reserved_reg s val hok (.inr lo) hi
  · refine access_reserved_ram s val (by omega) fun k hk => regionOf_eq_reserved (.inl ⟨by omega, ?_⟩)
    exact hbelow (by decide) hi hk
  · refine access_reserved_ram s val (by omega) fun k hk => regionOf_eq_reserved (.inr (.inl ⟨by omega, ?_⟩))
    exact hbelow (by decide) hi hk
  · exact access_reserved_ram s val (by omega) fun k hk => regionOf_eq_reserved (.inr (.inr (by omega)))

/-! ### The `SF` RAM (10_state.md R33) -/

/-- The offset of byte `b` of `SF[ch]`. -/
def sfOffset (ch : Ch) (b : Nat) : Nat := 0x100 + 0x40 * (if ch = .c1 then 1 else 0) + b

theorem sfChannel_sfOffset (ch : Ch) {b : Nat} (hb : b < 64) : sfChannel (sfOffset ch b) = ch := by
  cases ch with
  | c0 => exact if_pos (by simp only [sfOffset, reduceCtorEq, if_false]; omega)
  | c1 => exact if_neg (by simp only [sfOffset, if_true]; omega)

/-- Byte `b` of the 64 of `SF[ch]`; the reserved ones read 0. -/
theorem hostByte_sfOffset (s : State) (ch : Ch) {b : Nat} (hb : b < 64) :
    s.hostByte (sfOffset ch b) = look (s.chan ch).sf b 0 := by
  have hr : regionOf (sfOffset ch b) = .sf := by
    refine regionOf_eq_sf (by unfold sfOffset; omega) ?_
    unfold sfOffset
    split <;> omega
  have hidx : (sfOffset ch b - 0x100) % 0x40 = b := by
    unfold sfOffset
    omega
  rw [hostByte_of_sf hr, sfChannel_sfOffset ch hb, hidx]

/-- The state with the given scalefactor bytes. -/
def State.withSf (s : State) (v0 v1 : Vector Byte 58) : State :=
  { s with chan0 := { s.chan0 with sf := v0 }, chan1 := { s.chan1 with sf := v1 } }

theorem setSf_withSf (s : State) (v0 v1 v : Vector Byte 58) (ch : Ch) :
    ∃ v0' v1', (s.withSf v0 v1).setSf ch v = s.withSf v0' v1' := by
  cases ch
  · exact ⟨v, v1, rfl⟩
  · exact ⟨v0, v, rfl⟩

theorem writeBytes_sf_frame (s : State) {a n : Nat} (h : ∀ k, k < n → regionOf (a + k) = .sf) (val : Word) :
    ∃ v0 v1, s.writeBytes a n val = s.withSf v0 v1 := by
  refine writeBytes_keeps (P := fun u => ∃ v0 v1, u = s.withSf v0 v1) ?_ ⟨s.chan0.sf, s.chan1.sf, rfl⟩
  rintro u k ⟨v0, v1, rfl⟩ hk
  rw [writeByte_of_sf (h k hk)]
  exact setSf_withSf s v0 v1 _ _

theorem access_write_sf (s : State) {w : Width} {off : Offset} (val : Word) (hok : accessOk w off = true)
    (lo : 0x100 ≤ off.toNat) (hi : off.toNat < 0x180) :
    ∃ t, s.access (.write w off val) = t ∧ t = s.withSf t.chan0.sf t.chan1.sf ∧
      (∀ k, k < w.bytes → (off.toNat + k) % 0x40 < 58 → t.hostByte (off.toNat + k) = val.extractLsb' (8 * k) 8) ∧
      SameBytes s t (fun a => off.toNat ≤ a ∧ a < off.toNat + w.bytes) := by
  have hr (k : Nat) (hk : k < w.bytes) : regionOf (off.toNat + k) = .sf :=
    regionOf_eq_sf (by omega) (w.add_lt_of_aligned (aligned_of_accessOk hok) (by decide) hi hk)
  refine ⟨_, access_write_ram lo s val, ?_, fun k hk hb => ?_, writeBytes_sameBytes s _ _ val⟩
  · obtain ⟨v0, v1, hv⟩ := writeBytes_sf_frame s hr val
    rw [hv]
    rfl
  · exact hostByte_writeBytes_inside hk (.inr (.inr ⟨hr k hk, by omega⟩)) val

/-! ### The clauses together -/

/-- A register that keeps the low `n` bits of the word written reads back as the word masked to them. -/
theorem busRead_of_kept_low {t : State} {w : Word} {a : Nat} (n : Nat)
    (hread : t.readReg a = (w.extractLsb' 0 n).setWidth 32) (ha : a < 0x100 := by decide)
    (h4 : a % 4 = 0 := by decide) : t.busRead a 4 = w &&& BitVec.ofNat 32 (2 ^ n - 1) := by
  rw [busRead_of_regs t ha h4, hread, setWidth_extractLsb'_low]

theorem setWidth_isillS_put (v : Vector (BitVec 12) 3) {i : Nat} (x : BitVec 12) (hi : i < 3) :
    (look (put v i x) i 0).setWidth 32 = x.setWidth 32 := by
  rw [look_put_same _ _ _ hi]

/-- Settles O24: each register keeps the bits its field has, and the RAM and the reserved offsets as above. -/
theorem registerWritesReadBack : Obligations.RegisterWritesReadBack := by
  refine ⟨fun s w => ?_, fun s pos ch bitpos h => ?_, fun s ch => ⟨fun b => ?_, fun b lo hi => ?_⟩,
    fun s w off val hok lo hi => access_write_sf s val hok lo hi, fun s off w h => access_plain_register s w h,
    fun s w off val hok h => access_reserved s val hok h⟩
  · refine ⟨(busRead_of_regs _ (by decide) (by decide)).trans (readCtrl_writeCtrl s w), fun h => ?_, fun h => ?_, rfl,
      fun h => writeCtrl_of_no_reset s h, busRead_of_kept_low 15 rfl,
      (busRead_of_regs _ (by decide) (by decide)).trans (setWidth_clampMdLen w), busRead_of_kept_low 8 rfl,
      busRead_of_kept_low 31 rfl, busRead_of_kept_low 28 rfl, busRead_of_kept_low 9 rfl, ?_,
      busRead_of_kept_low 31 rfl, busRead_of_kept_low 28 rfl, busRead_of_kept_low 9 rfl, ?_,
      busRead_of_kept_low 21 rfl, busRead_of_kept_low 12 (setWidth_isillS_put _ _ (by decide)),
      busRead_of_kept_low 12 (setWidth_isillS_put _ _ (by decide)),
      busRead_of_kept_low 12 (setWidth_isillS_put _ _ (by decide))⟩
    · rw [busRead_of_regs _ (by decide) (by decide), readCmd_writeCmd, h]
      rfl
    · rw [busRead_of_regs _ (by decide) (by decide), busRead_of_regs _ (by decide) (by decide), readCmd_writeCmd, h]
      rfl
    · rw [busRead_of_regs s (by decide) (by decide)]
      exact (busRead_of_regs _ (by decide) (by decide)).trans (s.chan0.gcd3_write w)
    · rw [busRead_of_regs s (by decide) (by decide)]
      exact (busRead_of_regs _ (by decide) (by decide)).trans (s.chan1.gcd3_write w)
  · refine ⟨_, busRead_of_regs s (by decide) (by decide), ?_⟩
    rw [State.readReg, h]
    exact errInfo_fields pos ch bitpos
  · exact (hostByte_sfOffset s ch (by omega)).trans (look_lt _ _ b.isLt)
  · exact (hostByte_sfOffset s ch hi).trans (look_ge _ _ lo)

end Sys2Proof.Machine

/-! ## Which accesses are refused for their width or alignment (20_memory.md R67) -/

namespace Sys2Proof.Machine

section

variable {w : Width} {off : Offset}

/-- Only an illegal access is refused as a bad one; the busy hazard is another refusal. -/
theorem hostAccess_badAccess_iff (a : Access) (s : State) :
    hostAccess a s = .refused .badAccess ↔ a.legal = false := by
  cases hlegal : a.legal with
  | false => simp [hostAccess, hlegal]
  | true => cases hbusy : s.status.busy && !busyAllowed a <;> simp [hostAccess, hlegal, hbusy]

theorem accessOk_eq_false_iff :
    accessOk w off = false ↔ widthOk (regionOf off.toNat) w = false ∨ off.toNat % w.bytes ≠ 0 := by
  rw [accessOk, Bool.and_eq_false_iff, decide_eq_false_iff_not]

theorem accessOk_false_of_regs (h : regionOf off.toNat = .regs) :
    accessOk w off = false ↔ ¬ (w = .word ∧ off.toNat % 4 = 0) := by
  rw [accessOk_eq_false_iff, h]
  cases w <;> simp [widthOk, Width.bytes]

/-- A region that takes every width refuses only what is misaligned. -/
theorem accessOk_false_of_anyWidth (h : widthOk (regionOf off.toNat) w = true) :
    accessOk w off = false ↔ off.toNat % w.bytes ≠ 0 := by
  simp [accessOk_eq_false_iff, h]

/-- `PCM` and `ISI` take no byte access. -/
theorem accessOk_false_of_noBytes (h : regionOf off.toNat = .pcm ∨ regionOf off.toNat = .isi) :
    accessOk w off = false ↔ w = .byte ∨ off.toNat % w.bytes ≠ 0 := by
  have hwidth : widthOk (regionOf off.toNat) w = false ↔ w = .byte := by
    obtain h | h := h <;> rw [h] <;> cases w <;> decide
  rw [accessOk_eq_false_iff, hwidth]

end

/-- Settles O9: a refused access is one whose width its region does not take, or a misaligned one. -/
theorem wrongWidthOrAlignmentIsRefused : Obligations.WrongWidthOrAlignmentIsRefused := by
  intro s w off a ha
  have hrefused : hostAccess a s = .refused .badAccess ↔ accessOk w off = false := by
    rw [hostAccess_badAccess_iff]
    obtain rfl | ⟨v, rfl⟩ := ha <;> rfl
  rw [hrefused]
  refine ⟨fun h => ?_, fun h => ?_, fun h => ?_, fun h => ?_⟩
  · exact accessOk_false_of_regs (regionOf_eq_regs h)
  · refine accessOk_false_of_anyWidth ?_
    obtain ⟨lo, hi⟩ | ⟨lo, hi⟩ := h
    · rw [regionOf_eq_sf lo hi]
      rfl
    · rw [regionOf_eq_md lo hi]
      rfl
  · exact accessOk_false_of_noBytes (h.imp (fun h => regionOf_eq_pcm h.1 h.2) (fun h => regionOf_eq_isi h.1 h.2))
  · refine accessOk_false_of_anyWidth ?_
    rw [regionOf_eq_reserved h]
    rfl

end Sys2Proof.Machine

/-! ## What a read gives, and what a main-data write stores (20_memory.md R66, R68) -/

namespace Sys2Proof.Machine

open Claims

theorem Width.bytes_le_four (w : Width) : w.bytes ≤ 4 := by
  cases w <;> decide

/-- Byte `k` of a read is byte `k` of the offsets it covers. -/
theorem extractLsb'_busRead (s : State) (a : Nat) {n k : Nat} (hk : k < n) (hn : n ≤ 4) :
    (s.busRead a n).extractLsb' (8 * k) 8 = s.hostByte (a + k) := by
  refine BitVec.eq_of_getLsbD_eq fun i hi => ?_
  have hdiv : (8 * k + i) / 8 = k := by omega
  have hmod : (8 * k + i) % 8 = i := by omega
  rw [BitVec.getLsbD_extractLsb', getLsbD_busRead s a n (by omega), hdiv, hmod]
  simp [hi, show 8 * k + i < 8 * n by omega]

/-- The bits above a read are 0. -/
theorem getLsbD_busRead_above (s : State) (a : Nat) {n i : Nat} (h : 8 * n ≤ i) : (s.busRead a n).getLsbD i = false := by
  obtain hi | hi : i < 32 ∨ 32 ≤ i := by omega
  · rw [getLsbD_busRead s a n hi, decide_eq_false (by omega), Bool.false_and]
  · exact BitVec.getLsbD_of_ge _ _ hi

/-- A write of the main-data RAM changes `MD` only. -/
theorem writeBytes_md_frame (s : State) {a n : Nat} (h : ∀ k, k < n → regionOf (a + k) = .md) (val : Word) :
    ∃ m, s.writeBytes a n val = { s with mem := m } := by
  refine writeBytes_keeps (P := fun u => ∃ m, u = { s with mem := m }) ?_ ⟨s.mem, rfl⟩
  rintro u k ⟨m, rfl⟩ hk
  exact ⟨_, writeByte_of_md (h k hk) _⟩

theorem access_write_md (s : State) {w : Width} {off : Offset} (val : Word) (hok : accessOk w off = true)
    (lo : 0x1000 ≤ off.toNat) (hi : off.toNat < 0x2000) :
    ∃ t, s.access (.write w off val) = t ∧ t = { s with mem := t.mem } ∧
      (∀ k, k < w.bytes → t.hostByte (off.toNat + k) = val.extractLsb' (8 * k) 8) ∧
      SameBytes s t (fun a => off.toNat ≤ a ∧ a < off.toNat + w.bytes) := by
  have hr (k : Nat) (hk : k < w.bytes) : regionOf (off.toNat + k) = .md :=
    regionOf_eq_md (by omega) (w.add_lt_of_aligned (aligned_of_accessOk hok) (by decide) hi hk)
  refine ⟨_, access_write_ram (by omega) s val, ?_, fun k hk => ?_, writeBytes_sameBytes s _ _ val⟩
  · obtain ⟨m, hm⟩ := writeBytes_md_frame s hr val
    rw [hm]
  · exact hostByte_writeBytes_inside hk (.inl (hr k hk)) val

/-- Settles O25: a read gives the bytes it covers, and a main-data write stores those of its value. -/
theorem mainDataWritesReadBack : Obligations.MainDataWritesReadBack := by
  refine ⟨fun s w off _ => ⟨_, rfl, rfl, fun k hk => ?_, fun k hk => ?_⟩,
    fun s w off val hok lo hi => access_write_md s val hok lo hi⟩
  · exact extractLsb'_busRead s off.toNat hk w.bytes_le_four
  · exact getLsbD_busRead_above s off.toNat hk

end Sys2Proof.Machine

/-! ## The bit reader (20_memory.md R61 to R64) -/

namespace Sys2Proof.Machine

theorem stringBit_of_inside {s : State} {p : Nat} (h : p / 8 < s.mdLen.toNat) :
    s.stringBit p = (s.mdByte (p / 8)).getLsbD (7 - p % 8) := by
  simp [State.stringBit, State.bitOutside, h]

theorem stringBit_of_outside {s : State} {p : Nat} (h : s.mdLen.toNat ≤ p / 8) : s.stringBit p = false := by
  simp [State.stringBit, State.bitOutside, h]

section

variable (s : State) (n : Nat) (r : Reader)

/-- One bit more is read below the bits before it. -/
theorem readBits_fst_succ :
    (readBits s (n + 1) r).1 = Nat.bit (s.stringBit (r.bitpos.toNat + n)) (readBits s n r).1 := by
  simp [readBits, List.range_succ, Nat.bit_val]

theorem readBits_fst_lt : (readBits s n r).1 < 2 ^ n := by
  induction n with
  | zero => exact Nat.one_pos
  | succ n ih => rwa [readBits_fst_succ, Nat.bit_lt_two_pow_succ_iff]

/-- The first bit read is the most significant of the value (20_memory.md R62). -/
theorem testBit_readBits_fst {k : Nat} (hk : k < n) :
    (readBits s n r).1.testBit (n - 1 - k) = s.stringBit (r.bitpos.toNat + k) := by
  induction n with
  | zero => omega
  | succ n ih =>
    rw [readBits_fst_succ]
    obtain rfl | hlt : k = n ∨ k < n := by omega
    · rw [show k + 1 - 1 - k = 0 by omega, Nat.testBit_bit_zero]
    · rw [show n + 1 - 1 - k = (n - 1 - k) + 1 by omega, Nat.testBit_bit_succ, ih hlt]

theorem readBits_bitpos : (readBits s n r).2.bitpos.toNat = (r.bitpos.toNat + n) % 2 ^ 15 := BitVec.toNat_ofNat ..

/-- A read latches a bit at or past `MD_LEN` (20_memory.md R63) and a wrap of the cursor (R64; log 12). -/
theorem readBits_oob_iff :
    (readBits s n r).2.oob = true ↔
      r.oob = true ∨ (∃ k, k < n ∧ s.mdLen.toNat ≤ (r.bitpos.toNat + k) / 8) ∨ 32767 < r.bitpos.toNat + n := by
  simp [readBits, Reader.moveTo, State.bitOutside, or_assoc]

end

/-- Settles O31: the bits, the cursor and the latch of a read, and the bits of the string. -/
theorem bitReaderReadsMsbFirst : Obligations.BitReaderReadsMsbFirst := fun s n r =>
  ⟨_, _, rfl, readBits_fst_lt s n r, fun _ => testBit_readBits_fst s n r, readBits_bitpos s n r, readBits_oob_iff s n r,
    fun _ => stringBit_of_inside, fun _ => stringBit_of_outside⟩

end Sys2Proof.Machine

/-! ## The encoding (30_encoding.md R80 to R84) -/

namespace Sys2Proof

/-! ### A command's word is read back as the command -/

theorem decode_encode {i : Instr} (h : i.wellFormed = true) : decode (encode i) = .ok i := by
  have hfields : Laws.EncodedFields.Statement i := by
    cases i with
    | nop => exact Laws.EncodedFields.nop
    | clearhist all ch => exact Laws.EncodedFields.clearhist all ch
    | huff ch => exact Laws.EncodedFields.huff ch
    | requant all ch => exact Laws.EncodedFields.requant all ch
    | reorder all ch => exact Laws.EncodedFields.reorder all ch
    | stereo => exact Laws.EncodedFields.stereo
    | antialias all ch => exact Laws.EncodedFields.antialias all ch
    | imdct all ch => exact Laws.EncodedFields.imdct all ch
    | freqinv all ch => exact Laws.EncodedFields.freqinv all ch
    | synth all ch => exact Laws.EncodedFields.synth all ch
    | silence => exact Laws.EncodedFields.silence
    | backend => exact Laws.EncodedFields.backend
  obtain ⟨-, -, hdecode⟩ := hfields h
  exact hdecode

/-! ### A word that decodes is the word of its command -/

section
variable {w : Word} {i j : Instr} {n : Nat}

/-- The fields of the word are the opcode and the operand of the well-formed command. -/
structure FieldsOf (w : Word) (i : Instr) : Prop where
  op : opField w = (opcode i).toNat
  operand : encode i = encodeC (opcode i) (allField w) (chField w)
  wellFormed : i.wellFormed = true

theorem bit_chField (w : Word) : (chField w).bit = BitVec.ofBool (w.getLsbD 8) := by
  unfold chField
  cases w.getLsbD 8 <;> rfl

theorem extractLsb'_one (w : Word) (k : Nat) : w.extractLsb' k 1 = BitVec.ofBool (w.getLsbD k) := by
  ext i hi
  simp [Nat.lt_one_iff.mp hi]

/-- A word whose reserved bits are 0 is its other three fields. -/
theorem eq_encodeC_of_rsvField (h : rsvField w = 0) : w = encodeC (w.extractLsb' 0 8) (allField w) (chField w) := by
  have hrsv : w.extractLsb' 10 22 = 0 := BitVec.eq_of_toNat_eq h
  calc
    w = w.extractLsb' 0 32 := BitVec.extractLsb'_eq_self.symm
    _ = w.extractLsb' 10 22 ++ w.extractLsb' 9 1 ++ w.extractLsb' 8 1 ++ w.extractLsb' 0 8 := by
      rw [BitVec.extractLsb'_append_extractLsb'_eq_extractLsb' (show 10 = 9 + 1 from rfl),
        BitVec.extractLsb'_append_extractLsb'_eq_extractLsb' (show 9 = 8 + 1 from rfl),
        BitVec.extractLsb'_append_extractLsb'_eq_extractLsb' (show 8 = 0 + 8 from rfl)]
    _ = encodeC (w.extractLsb' 0 8) (allField w) (chField w) := by
      rw [hrsv, extractLsb'_one, extractLsb'_one, encodeC, allField, bit_chField]

theorem FieldsOf.word_eq (h : FieldsOf w i) (hrsv : rsvField w = 0) : w = encode i := by
  have hop : w.extractLsb' 0 8 = opcode i := BitVec.eq_of_toNat_eq h.op
  rw [h.operand, ← hop, ← eq_encodeC_of_rsvField hrsv]

theorem fieldsOf_of_decodeFree (hop : opField w = n)
    (hi : (opcode i).toNat = n ∧ encode i = encodeC (opcode i) false .c0 ∧ i.wellFormed = true)
    (h : decodeFree w i = .ok j) : FieldsOf w j := by
  obtain ⟨hn, henc, hwf⟩ := hi
  unfold decodeFree at h
  split at h
  next hoperand =>
    obtain ⟨hall, hch⟩ := hoperand
    cases h
    exact ⟨hop.trans hn.symm, by rw [hall, hch, henc], hwf⟩
  next => cases h

theorem fieldsOf_of_decodePer {mk : Bool → Ch → Instr} (hop : opField w = n)
    (hmk : ∀ all ch, (opcode (mk all ch)).toNat = n ∧ encode (mk all ch) = encodeC (opcode (mk all ch)) all ch ∧
      (mk all ch).wellFormed = channelOperandOk all ch)
    (h : decodePer w mk = .ok j) : FieldsOf w j := by
  obtain ⟨hn, henc, hwf⟩ := hmk (allField w) (chField w)
  unfold decodePer at h
  split at h
  next hok =>
    cases h
    exact ⟨hop.trans hn.symm, henc, hwf.trans hok⟩
  next => cases h

theorem fieldsOf_of_decodeHuff (hop : opField w = 0x10) (h : decodeHuff w = .ok j) : FieldsOf w j := by
  unfold decodeHuff at h
  split at h
  next => cases h
  next hall =>
    cases h
    have hone : allField w = false := by simpa using hall
    exact ⟨hop, by rw [hone]; rfl, rfl⟩

/-- Each row of the opcode map (30_encoding.md R83) gives a command with the fields of the word. -/
theorem fieldsOf_of_decodeOp (h : decodeOp w = .ok j) : FieldsOf w j := by
  unfold decodeOp at h
  split at h
  next hop => exact fieldsOf_of_decodeFree hop ⟨rfl, rfl, rfl⟩ h
  next hop => exact fieldsOf_of_decodePer hop (fun _ _ => ⟨rfl, rfl, rfl⟩) h
  next hop => exact fieldsOf_of_decodeHuff hop h
  next hop => exact fieldsOf_of_decodePer hop (fun _ _ => ⟨rfl, rfl, rfl⟩) h
  next hop => exact fieldsOf_of_decodePer hop (fun _ _ => ⟨rfl, rfl, rfl⟩) h
  next hop => exact fieldsOf_of_decodeFree hop ⟨rfl, rfl, rfl⟩ h
  next hop => exact fieldsOf_of_decodePer hop (fun _ _ => ⟨rfl, rfl, rfl⟩) h
  next hop => exact fieldsOf_of_decodePer hop (fun _ _ => ⟨rfl, rfl, rfl⟩) h
  next hop => exact fieldsOf_of_decodePer hop (fun _ _ => ⟨rfl, rfl, rfl⟩) h
  next hop => exact fieldsOf_of_decodePer hop (fun _ _ => ⟨rfl, rfl, rfl⟩) h
  next hop => exact fieldsOf_of_decodeFree hop ⟨rfl, rfl, rfl⟩ h
  next hop => exact fieldsOf_of_decodeFree hop ⟨rfl, rfl, rfl⟩ h
  next => cases h

theorem wellFormed_and_eq_encode_of_decode (h : decode w = .ok i) : i.wellFormed = true ∧ w = encode i := by
  unfold decode at h
  split at h
  next hrsv =>
    have hfields := fieldsOf_of_decodeOp h
    exact ⟨hfields.wellFormed, hfields.word_eq hrsv⟩
  next => cases h

end

/-- Settles O2: the fields of a word that decodes are those of its command, and a command's word is read back. -/
theorem decodesExactlyEncodedWords : Obligations.DecodesExactlyEncodedWords := fun _ _ =>
  ⟨wellFormed_and_eq_encode_of_decode, fun ⟨hwf, hw⟩ => hw ▸ decode_encode hwf⟩

/-- Settles O1: each listed word is the word of its command (O2). -/
theorem listedWordsDecode : Obligations.ListedWordsDecode := by
  unfold Obligations.ListedWordsDecode
  and_intros <;> exact (decodesExactlyEncodedWords _ _).mpr ⟨rfl, rfl⟩

end Sys2Proof

namespace Sys2Proof.Machine

open Claims

/-! ### The channel set and the legality of an operand (30_encoding.md R81, R82) -/

theorem channelsLegal_iff (s : State) (all : Bool) (ch : Ch) :
    channelsLegal s all ch = true ↔ (all = true → ch = .c0) ∧ (s.chMode = 3 → ch = .c0) := by
  cases ch with
  | c0 =>
    cases all with
    | false => simp [channelsLegal, chans, Ch.isOne]
    | true => simp [channelsLegal_all]
  | c1 =>
    cases all with
    | false => simp [channelsLegal, chans, State.nch, Ch.isOne]
    | true => simp [channelsLegal, Ch.isOne]

/-- Settles O3: `ALL` stands for the stream's channels, and the operand is legal as above. -/
theorem channelSetAndLegality : Obligations.ChannelSetAndLegality := by
  intro s all ch
  refine ⟨?_, ?_, ?_, channelsLegal_iff s all ch⟩
  · rintro rfl
    rfl
  · rintro rfl hmono
    exact if_pos hmono
  · rintro rfl htwo
    exact if_neg htwo

/-! ### IllegalCommand (30_encoding.md R82, R85) -/

/-- Every per-channel command begins with the check of its operand; a channel-free one has none. -/
theorem commandBody_of_channelOperand {i : Instr} {all : Bool} {ch : Ch} (h : channelOperand i = some (all, ch))
    (s : State) : ∃ body, commandBody i s = if channelsLegal s all ch then body else .err illegalCommand s := by
  cases i <;> cases h <;> exact ⟨_, rfl⟩

theorem exec_of_illegal_operand {i : Instr} {all : Bool} {ch : Ch} {s : State} (h : channelOperand i = some (all, ch))
    (hl : ¬ channelsLegal s all ch = true) : exec i s = .next (failed s 4 0) := by
  obtain ⟨body, hbody⟩ := commandBody_of_channelOperand h s
  rw [exec_eq_finish, hbody, if_neg hl]
  rfl

/-- Settles O5: the engine raises IllegalCommand for a word that is no command, and the command's own check raises it for
channel 1 of a mono stream. -/
theorem illegalWordRaisesIllegalCommand : Obligations.IllegalWordRaisesIllegalCommand := by
  rintro s ⟨hbusy, hnext⟩ hillegal
  cases hdecode : decode s.cmd with
  | error r =>
    rw [step_eq_engineTurn (hbusy ▸ hnext), engineTurn, if_pos hbusy, runCommand, hdecode]
    rfl
  | ok i =>
    rw [Illegal, hdecode] at hillegal
    obtain ⟨hmono, all, ch, hoperand, -, rfl⟩ := hillegal
    have hl : ¬ channelsLegal s all .c1 = true := fun hl => nomatch ((channelsLegal_iff s all .c1).mp hl).2 hmono
    rw [stepRunsDecodedCommand s i ⟨hbusy, hnext⟩ hdecode, exec_of_illegal_operand hoperand hl]

end Sys2Proof.Machine

/-! ## Decoding a codeword (40_huffman.md R105) -/

namespace Sys2Proof.Machine

open Claims

/-! ### Single bits -/

/-- A read of one bit: the bit, and the cursor one further, with a bit out of bounds or a wrap latched. -/
theorem readBits_one (s : State) (r : Reader) :
    readBits s 1 r =
      ((s.stringBit r.bitpos.toNat).toNat,
        { bitpos := r.bitpos + 1
          oob := r.oob || s.bitOutside r.bitpos.toNat || decide (32767 < r.bitpos.toNat + 1) }) := by
  simp [readBits, Reader.moveTo, BitVec.ofNat_add]

theorem readBits_one_of_outside {s : State} {r : Reader} (h : s.mdLen.toNat ≤ r.bitpos.toNat / 8) :
    readBits s 1 r = (0, { bitpos := r.bitpos + 1, oob := true }) := by
  simp [readBits_one, stringBit_of_outside h, State.bitOutside, h]

theorem readBits_one_of_inside {s : State} {r : Reader} (h : r.bitpos.toNat / 8 < s.mdLen.toNat)
    (hwrap : r.bitpos.toNat < 32767) :
    readBits s 1 r = ((s.stringBit r.bitpos.toNat).toNat, { r with bitpos := r.bitpos + 1 }) := by
  have hout : s.bitOutside r.bitpos.toNat = false := decide_eq_false (by omega)
  rw [readBits_one, hout, decide_eq_false (by omega), Bool.or_false, Bool.or_false]

/-- Single reads in bounds move the cursor and latch nothing. -/
theorem readerAfter_of_inside {s : State} {r : Reader} {n : Nat}
    (h : ∀ k, k < n → (r.bitpos.toNat + k) / 8 < s.mdLen.toNat) (hwrap : r.bitpos.toNat + n ≤ 32767) :
    readerAfter s r n = { r with bitpos := r.bitpos + BitVec.ofNat 15 n } := by
  induction n with
  | zero => simp [readerAfter]
  | succ n ih =>
    have hcursor : (r.bitpos + BitVec.ofNat 15 n).toNat = r.bitpos.toNat + n := by
      rw [BitVec.toNat_add, BitVec.toNat_ofNat]
      omega
    rw [readerAfter, ih (fun k hk => h k (by omega)) (by omega),
      readBits_one_of_inside (by rw [hcursor]; exact h n (by omega)) (by rw [hcursor]; omega),
      BitVec.add_assoc, BitVec.ofNat_add]
    rfl

theorem bitsRead_succ (s : State) (r : Reader) (n : Nat) :
    bitsRead s r (n + 1) = bitsRead s r n ++ [decide ((readBits s 1 (readerAfter s r n)).1 = 1)] := by
  simp [bitsRead, List.range_succ]

theorem bitsRead_length (s : State) (r : Reader) (n : Nat) : (bitsRead s r n).length = n := by
  simp [bitsRead]

theorem take_bitsRead (s : State) (r : Reader) {m n : Nat} (h : m ≤ n) : (bitsRead s r n).take m = bitsRead s r m := by
  rw [bitsRead, ← List.map_take, List.take_range, Nat.min_eq_left h, bitsRead]

/-- Single reads in bounds give the bits of the string. -/
theorem bitsRead_of_inside {s : State} {r : Reader} {code : List Bool}
    (h : ∀ k, k < code.length → s.stringBit (r.bitpos.toNat + k) = code.getD k false ∧
      (r.bitpos.toNat + k) / 8 < s.mdLen.toNat)
    (hwrap : r.bitpos.toNat + code.length ≤ 32767) : bitsRead s r code.length = code := by
  refine List.ext_getElem (bitsRead_length s r _) fun k hk hlen => ?_
  obtain ⟨hbit, -⟩ := h k hlen
  have hcursor : (r.bitpos + BitVec.ofNat 15 k).toNat = r.bitpos.toNat + k := by
    rw [BitVec.toNat_add, BitVec.toNat_ofNat]
    omega
  have hafter := readerAfter_of_inside (s := s) (r := r) (n := k) (fun j hj => (h j (by omega)).2) (by omega)
  simp only [bitsRead, List.getElem_map, List.getElem_range, hafter, readBits_one, hcursor, hbit]
  simp [hlen]

/-! ### The codewords of a table -/

section

variable {α : Type} {table : List (List Bool × α)}

theorem mem_of_lookup {code : List Bool} {v : α} (h : table.lookup code = some v) : (code, v) ∈ table := by
  obtain ⟨l, l', rfl, -⟩ := List.lookup_eq_some_iff.mp h
  simp

/-- MAXLEN is the greatest length of a codeword. -/
theorem max?_codeword_lengths (h : table ≠ []) : (table.map (·.1.length)).max? = some (maxLen table) := by
  cases table with
  | nil => exact absurd rfl h
  | cons e table => simp only [List.map_cons, List.max?_cons', List.foldl_map, maxLen, List.foldl_cons, Nat.zero_max]

theorem length_le_maxLen {e : List Bool × α} (h : e ∈ table) : e.1.length ≤ maxLen table :=
  (List.max?_eq_some_iff.mp (max?_codeword_lengths (List.ne_nil_of_mem h))).2 _ (List.mem_map_of_mem h)

theorem exists_length_eq_maxLen (h : table ≠ []) : ∃ e ∈ table, e.1.length = maxLen table :=
  List.mem_map.mp (List.max?_eq_some_iff.mp (max?_codeword_lengths h)).1

/-! ### DecodeCode -/

variable {s : State} {r : Reader}

theorem decodeCode_of_lookup_some {n : Nat} {v : α} (h : table.lookup (bitsRead s r (n + 1)) = some v) (fuel : Nat) :
    decodeCode s table (fuel + 1) (bitsRead s r n) (readerAfter s r n) = (some v, readerAfter s r (n + 1)) := by
  rw [bitsRead_succ] at h
  simp only [decodeCode, h]
  rfl

theorem decodeCode_of_lookup_none {n : Nat} (h : table.lookup (bitsRead s r (n + 1)) = none) (fuel : Nat) :
    decodeCode s table (fuel + 1) (bitsRead s r n) (readerAfter s r n) =
      decodeCode s table fuel (bitsRead s r (n + 1)) (readerAfter s r (n + 1)) := by
  rw [bitsRead_succ] at h ⊢
  simp only [decodeCode, h]
  rfl

/-- As long as the bits form no codeword, the decode reads on. -/
theorem decodeCode_reads_on {n : Nat} (h : ∀ m, 0 < m → m ≤ n → table.lookup (bitsRead s r m) = none) (fuel : Nat) :
    decodeCode s table (fuel + n) [] r = decodeCode s table fuel (bitsRead s r n) (readerAfter s r n) := by
  induction n generalizing fuel with
  | zero => rfl
  | succ n ih =>
    rw [show fuel + (n + 1) = fuel + 1 + n by omega, ih (fun m hm hle => h m hm (by omega)),
      decodeCode_of_lookup_none (h (n + 1) (by omega) (by omega))]

/-- The decode ends at the first codeword the bits form. -/
theorem decodeCode_of_first_codeword {n : Nat} {v : α} (hn : 0 < n) (hv : table.lookup (bitsRead s r n) = some v)
    (hfirst : ∀ m, 0 < m → m < n → table.lookup (bitsRead s r m) = none) :
    decodeCode s table (maxLen table) [] r = (some v, readerAfter s r n) := by
  have hlen : n ≤ maxLen table := bitsRead_length s r n ▸ length_le_maxLen (mem_of_lookup hv)
  obtain ⟨m, rfl⟩ := Nat.exists_eq_succ_of_ne_zero hn.ne'
  obtain ⟨fuel, hfuel⟩ := Nat.exists_eq_add_of_le' hlen
  rw [hfuel, show fuel + (m + 1) = fuel + 1 + m by omega,
    decodeCode_reads_on (fun k hk hle => hfirst k hk (by omega)), decodeCode_of_lookup_some hv]

theorem decodeCode_of_no_codeword (h : ∀ n, 0 < n → n ≤ maxLen table → table.lookup (bitsRead s r n) = none) :
    decodeCode s table (maxLen table) [] r = (none, readerAfter s r (maxLen table)) := by
  have hall := decodeCode_reads_on h 0
  rwa [Nat.zero_add] at hall

end

/-- Settles O32: the decode ends at the first codeword its reads form, and reads in bounds give the bits of the string. -/
theorem decodeCodeReadsCodeword : Obligations.DecodeCodeReadsCodeword := by
  refine ⟨fun α s table r => ⟨fun n v => decodeCode_of_first_codeword, decodeCode_of_no_codeword,
    fun e => length_le_maxLen, exists_length_eq_maxLen⟩, fun s r => readBits_one_of_outside,
    fun α s table code v r hcode hv hfirst hbits hwrap => ?_⟩
  have hread := bitsRead_of_inside hbits hwrap
  have hpre (m : Nat) (hm : m < code.length) : bitsRead s r m = code.take m := by
    rw [← take_bitsRead s r hm.le, hread]
  rw [← readerAfter_of_inside (fun k hk => (hbits k hk).2) hwrap]
  exact decodeCode_of_first_codeword (List.length_pos_of_ne_nil hcode) (hread.symm ▸ hv)
    fun m hpos hm => hpre m hm ▸ hfirst m hpos hm

end Sys2Proof.Machine

/-! ## Pairs and quadruples (40_huffman.md R104, R106, R107, R109) -/

namespace Sys2Proof.Machine

open Claims

section

variable {s : State} {r r' : Reader}

/-! ### Escapes and signs -/

theorem readEscape_spec (s : State) (lb v : Nat) (r : Reader) :
    EscapeRead s lb v r (readEscape s lb v r).1 (readEscape s lb v r).2 := by
  unfold EscapeRead readEscape
  by_cases h : 0 < lb ∧ v = 15
  · have hint : 0 < lb ∧ (v : Int) = 15 := ⟨h.1, by rw [h.2]; rfl⟩
    rw [if_pos h, if_pos hint, h.2]
    exact ⟨rfl, rfl⟩
  · have hint : ¬ (0 < lb ∧ (v : Int) = 15) := by omega
    rw [if_neg h, if_neg hint]
    exact ⟨rfl, rfl⟩

theorem readSign_zero (s : State) (r : Reader) : readSign s 0 r = (0, r) := rfl

theorem readSign_spec (s : State) (v : Int) (r : Reader) : SignRead s v r (readSign s v r).1 (readSign s v r).2 := by
  unfold SignRead
  by_cases h : v = 0
  · rw [if_pos h, h]
    exact ⟨rfl, rfl⟩
  · rw [if_neg h, readSign, if_pos h]
    exact ⟨rfl, rfl⟩

/-- No table has more than 13 linbits. -/
theorem linbits_le (t : Nat) : linbits t ≤ 13 := by
  unfold linbits
  split <;> decide

/-- An escaped value: 15 and at most 13 bits more. -/
theorem escapeRead_bounds {t v0 : Nat} {v : Int} (h : EscapeRead s (linbits t) v0 r v r') (hv0 : v0 ≤ 15) :
    0 ≤ v ∧ v ≤ 8206 := by
  unfold EscapeRead at h
  split at h
  · have hlt : (readBits s (linbits t) r).1 < 2 ^ 13 :=
      (readBits_fst_lt s (linbits t) r).trans_le (Nat.pow_le_pow_right (by decide) (linbits_le t))
    omega
  · omega

/-- A sign keeps the magnitude. -/
theorem eq_or_eq_neg_of_signRead {v x : Int} (h : SignRead s v r x r') : x = v ∨ x = -v := by
  unfold SignRead at h
  split at h
  · omega
  · obtain ⟨rfl, -⟩ := h
    split
    · exact .inr rfl
    · exact .inl rfl

/-! ### DecodePair -/

/-- A decoded value is one of the table's. -/
theorem decodeCode_value_mem {α : Type} {table : List (List Bool × α)} {fuel : Nat} {pre : List Bool} {v : α}
    (h : decodeCode s table fuel pre r = (some v, r')) : ∃ code, (code, v) ∈ table := by
  induction fuel generalizing pre r with
  | zero => cases h
  | succ fuel ih =>
    simp only [decodeCode] at h
    split at h
    next hv =>
      cases h
      exact ⟨_, mem_of_lookup hv⟩
    next => exact ih h

theorem pairTable_value_le {t : Nat} {code : List Bool} {x y : Nat} (h : (code, x, y) ∈ pairTable t) : x ≤ 15 ∧ y ≤ 15 := by
  obtain ⟨e, -, he⟩ := List.mem_map.mp h
  simp only [Prod.mk.injEq] at he
  omega

theorem decodePair_table_zero (s : State) (r : Reader) : decodePair s 0 r = (some (0, 0), r) := rfl

theorem decodePair_no_table {t : Nat} (h : t = 4 ∨ t = 14) (s : State) (r : Reader) : decodePair s t r = (none, r) := by
  obtain rfl | rfl := h <;> rfl

section

variable {t : Nat} (h0 : t ≠ 0) (h4 : t ≠ 4) (h14 : t ≠ 14)

include h0 h4 h14

theorem decodePair_of_no_code (hd : decodeCode s (pairTable t) (maxLen (pairTable t)) [] r = (none, r')) :
    decodePair s t r = (none, r') := by
  rw [decodePair, if_neg h0, if_neg (not_or.mpr ⟨h4, h14⟩), hd]

theorem decodePair_of_code {x0 y0 : Nat}
    (hd : decodeCode s (pairTable t) (maxLen (pairTable t)) [] r = (some (x0, y0), r')) :
    ∃ x1 r2 x r3 y1 r4 y r5,
      EscapeRead s (linbits t) x0 r' x1 r2 ∧ SignRead s x1 r2 x r3 ∧
      EscapeRead s (linbits t) y0 r3 y1 r4 ∧ SignRead s y1 r4 y r5 ∧ decodePair s t r = (some (x, y), r5) := by
  refine ⟨_, _, _, _, _, _, _, _, readEscape_spec .., readSign_spec .., readEscape_spec .., readSign_spec .., ?_⟩
  rw [decodePair, if_neg h0, if_neg (not_or.mpr ⟨h4, h14⟩), hd]

end

/-- The values of a pair are a table's, escaped and signed. -/
theorem decodePair_bounds {t : Nat} {x y : Int} (h : decodePair s t r = (some (x, y), r')) :
    (-8206 ≤ x ∧ x ≤ 8206) ∧ (-8206 ≤ y ∧ y ≤ 8206) := by
  by_cases h0 : t = 0
  · rw [h0, decodePair_table_zero] at h
    cases h
    decide
  by_cases hno : t = 4 ∨ t = 14
  · rw [decodePair_no_table hno] at h
    cases h
  obtain ⟨h4, h14⟩ := not_or.mp hno
  obtain ⟨_ | ⟨x0, y0⟩, r1, hd⟩ : ∃ v r1, decodeCode s (pairTable t) (maxLen (pairTable t)) [] r = (v, r1) := ⟨_, _, rfl⟩
  · rw [decodePair_of_no_code h0 h4 h14 hd] at h
    cases h
  · obtain ⟨code, hmem⟩ := decodeCode_value_mem hd
    obtain ⟨hx0, hy0⟩ := pairTable_value_le hmem
    obtain ⟨x1, r2, x', r3, y1, r4, y', r5, hx1, hx, hy1, hy, heq⟩ := decodePair_of_code h0 h4 h14 hd
    rw [heq] at h
    cases h
    have := escapeRead_bounds hx1 hx0
    have := eq_or_eq_neg_of_signRead hx
    have := escapeRead_bounds hy1 hy0
    have := eq_or_eq_neg_of_signRead hy
    omega

end

/-- An integer of at most 8206 in magnitude fits 16 bits. -/
theorem toInt_ofInt_16 {x : Int} (h : -8206 ≤ x ∧ x ≤ 8206) : (BitVec.ofInt 16 x).toInt = x := by
  rw [BitVec.toInt_ofInt]
  exact Int.bmod_eq_of_le (by omega) (by omega)

/-- Settles O33: a pair is put together from its codeword's values, escapes and signs, each of which is bounded. -/
theorem decodedPairsFitS16 : Obligations.DecodedPairsFitS16 := by
  refine ⟨fun s t r r' x y h => ?_, readSign_zero, fun s r => ⟨decodePair_table_zero s r, ?_, ?_⟩,
    fun s t r h0 h4 h14 => ⟨fun r1 => decodePair_of_no_code h0 h4 h14, fun x0 y0 r1 hd => ?_⟩⟩
  · obtain ⟨hx, hy⟩ := decodePair_bounds h
    exact ⟨⟨hx.1, hx.2, toInt_ofInt_16 hx⟩, hy.1, hy.2, toInt_ofInt_16 hy⟩
  · exact decodePair_no_table (.inl rfl) s r
  · exact decodePair_no_table (.inr rfl) s r
  · obtain ⟨code, hmem⟩ := decodeCode_value_mem hd
    obtain ⟨hx0, hy0⟩ := pairTable_value_le hmem
    exact ⟨hx0, hy0, decodePair_of_code h0 h4 h14 hd⟩

/-! ### DecodeQuad -/

/-- Table A is complete: any six bits begin with one of its codewords (93_implementation_defined.md Part B). -/
theorem quadTableA_complete (a b c d e f : Bool) :
    ∃ n, n < 7 ∧ 0 < n ∧ (quadTableA.lookup ([a, b, c, d, e, f].take n)).isSome = true := by
  revert a b c d e f
  decide

theorem quadTableA_value_lt : ∀ e ∈ quadTableA, e.2 < 16 := by decide

theorem exists_quadTableA_codeword (s : State) (r : Reader) :
    ∃ n, 0 < n ∧ (quadTableA.lookup (bitsRead s r n)).isSome = true := by
  obtain ⟨n, hlt, hn, hsome⟩ := quadTableA_complete _ _ _ _ _ _
  exact ⟨n, hn, take_bitsRead s r (Nat.le_of_lt_succ hlt) ▸ hsome⟩

theorem decodeCode_quadTableA (s : State) (r : Reader) :
    ∃ h r', h < 16 ∧ decodeCode s quadTableA (maxLen quadTableA) [] r = (some h, r') := by
  have hex := exists_quadTableA_codeword s r
  obtain ⟨hn, hsome⟩ := Nat.find_spec hex
  obtain ⟨h, hv⟩ := Option.isSome_iff_exists.mp hsome
  refine ⟨h, _, quadTableA_value_lt _ (mem_of_lookup hv), decodeCode_of_first_codeword hn hv fun m hm hlt => ?_⟩
  exact Option.not_isSome_iff_eq_none.mp fun hm' => Nat.find_min hex hlt ⟨hm, hm'⟩

theorem decodeQuadCode_spec (s : State) (tableB : Bool) (r : Reader) :
    ∃ h r', h < 16 ∧ decodeQuadCode s tableB r = (some h, r') ∧
      (tableB = true → h = 15 - (readBits s 4 r).1 ∧ r' = (readBits s 4 r).2) ∧
      (tableB = false → decodeCode s quadTableA (maxLen quadTableA) [] r = (some h, r')) := by
  cases tableB with
  | true => exact ⟨_, _, by omega, rfl, fun _ => ⟨rfl, rfl⟩, nofun⟩
  | false =>
    obtain ⟨h, r', hlt, hd⟩ := decodeCode_quadTableA s r
    exact ⟨h, r', hlt, hd, nofun, fun _ => hd⟩

/-- The bits of `h` from 3 down, signed one by one. -/
theorem decodeQuad_of_code {s : State} {tableB : Bool} {r r' : Reader} {h : Nat}
    (hd : decodeQuadCode s tableB r = (some h, r')) :
    ∃ v r1 w r2 x r3 y r4,
      SignRead s (h.testBit 3).toNat r' v r1 ∧ SignRead s (h.testBit 2).toNat r1 w r2 ∧
      SignRead s (h.testBit 1).toNat r2 x r3 ∧ SignRead s (h.testBit 0).toNat r3 y r4 ∧
      decodeQuad s tableB r = (some (v, w, x, y), r4) := by
  have hbit (i : Nat) : (h.testBit i).toNat = h / 2 ^ i % 2 := Nat.toNat_testBit h i
  refine ⟨_, _, _, _, _, _, _, _, readSign_spec .., readSign_spec .., readSign_spec .., readSign_spec .., ?_⟩
  simp only [decodeQuad, hd, hbit, Nat.reducePow, Nat.div_one]

/-- A signed bit is -1, 0 or 1. -/
theorem signRead_bit {s : State} {b : Bool} {r r' : Reader} {x : Int} (h : SignRead s b.toNat r x r') :
    x = -1 ∨ x = 0 ∨ x = 1 := by
  have := eq_or_eq_neg_of_signRead h
  have := b.toNat_le
  omega

/-- Settles O34: `h` always decodes, and its bits are signed one by one. -/
theorem quadruplesAlwaysDecode : Obligations.QuadruplesAlwaysDecode := by
  intro s tableB r
  obtain ⟨h, r0, hlt, hcode, hB, hA⟩ := decodeQuadCode_spec s tableB r
  obtain ⟨v, r1, w, r2, x, r3, y, r4, hv, hw, hx, hy, hquad⟩ := decodeQuad_of_code hcode
  exact ⟨h, r0, v, r1, w, r2, x, r3, y, r4, hlt, hB, hA, hv, hw, hx, hy, hquad, signRead_bit hv, signRead_bit hw,
    signRead_bit hx, signRead_bit hy⟩

end Sys2Proof.Machine

/-! ## HUFF (40_huffman.md R100, R108, R110 to R114)

The loops of the statements are sequences of turns; each turn determines the run after it, so a sequence of turns is what
`pairsLoop` and `quadsLoop` do. -/

namespace Sys2Proof.Machine

open Claims Laws

/-! ### A turn determines the run after it -/

section

variable {s : State} {c : Channel} {h g g' : HuffRun}

theorem huffRun_eq (hisi : ∀ i : Fin 576, g.isi[i] = g'.isi[i]) (hpos : g.pos = g'.pos) (hrd : g.rd = g'.rd) : g = g' := by
  obtain ⟨isi, pos, rd⟩ := g
  obtain ⟨isi', pos', rd'⟩ := g'
  obtain rfl : isi = isi' := Vector.ext fun i hi => hisi ⟨i, hi⟩
  obtain rfl : pos = pos' := hpos
  obtain rfl : rd = rd' := hrd
  rfl

theorem pairStep_unique (h1 : PairStep s c h g) (h2 : PairStep s c h g') : g = g' := by
  obtain ⟨x, y, hd, hpos, hisi⟩ := h1
  obtain ⟨x', y', hd', hpos', hisi'⟩ := h2
  rw [hd, Prod.mk.injEq, Option.some.injEq, Prod.mk.injEq] at hd'
  obtain ⟨⟨rfl, rfl⟩, hrd⟩ := hd'
  exact huffRun_eq (fun i => (hisi i).trans (hisi' i).symm) (hpos.trans hpos'.symm) hrd

theorem quadStep_unique (h1 : QuadStep s c h g) (h2 : QuadStep s c h g') : g = g' := by
  obtain ⟨v, w, x, y, hd, hpos, hisi⟩ := h1
  obtain ⟨v', w', x', y', hd', hpos', hisi'⟩ := h2
  simp only [hd, Prod.mk.injEq, Option.some.injEq] at hd'
  obtain ⟨⟨rfl, rfl, rfl, rfl⟩, hrd⟩ := hd'
  exact huffRun_eq (fun i => (hisi i).trans (hisi' i).symm) (hpos.trans hpos'.symm) hrd

/-! ### The loops follow the turns -/

variable {n m : Nat} {P Q : Nat → HuffRun}

theorem pairsLoop_succ_of_pairStep (hstep : PairStep s c h g) (m : Nat) : pairsLoop s c (m + 1) h = pairsLoop s c m g := by
  obtain ⟨x, y, hd, hwritten⟩ := hstep
  have hd' := hd
  rw [← tableFor_eq] at hd'
  rw [pairsLoop, hd']
  exact congrArg (pairsLoop s c m) (pairStep_unique (pairStep_of_decode hd') ⟨x, y, hd, hwritten⟩)

theorem quadGoes_iff : QuadGoes c h ↔ h.pos < count1Stop ∧ h.rd.bitpos.toNat < c.regionEnd := Iff.rfl

theorem quadsLoop_succ_of_quadStep (hgoes : QuadGoes c h) (hstep : QuadStep s c h g) (m : Nat) :
    quadsLoop s c (m + 1) h = quadsLoop s c m g := by
  obtain ⟨v, w, x, y, hd, hwritten⟩ := hstep
  rw [quadsLoop, if_pos (quadGoes_iff.mp hgoes), hd]
  exact congrArg (quadsLoop s c m) (quadStep_unique (quadStep_of_decode hd) ⟨v, w, x, y, hd, hwritten⟩)

theorem pairsLoop_of_steps (hP : ∀ k, k < n → PairStep s c (P k) (P (k + 1))) (m : Nat) :
    pairsLoop s c (m + n) (P 0) = pairsLoop s c m (P n) := by
  induction n generalizing m with
  | zero => rfl
  | succ n ih =>
    rw [show m + (n + 1) = m + 1 + n by omega, ih fun k hk => hP k (by omega), pairsLoop_succ_of_pairStep (hP n (by omega))]

theorem quadsLoop_of_steps (hQ : ∀ k, k < n → QuadGoes c (Q k) ∧ QuadStep s c (Q k) (Q (k + 1))) (m : Nat) :
    quadsLoop s c (m + n) (Q 0) = quadsLoop s c m (Q n) := by
  induction n generalizing m with
  | zero => rfl
  | succ n ih =>
    obtain ⟨hgoes, hstep⟩ := hQ n (by omega)
    rw [show m + (n + 1) = m + 1 + n by omega, ih fun k hk => hQ k (by omega), quadsLoop_succ_of_quadStep hgoes hstep]

theorem quadsLoop_of_not_quadGoes (hgoes : ¬ QuadGoes c h) (m : Nat) : quadsLoop s c m h = .ok h := by
  cases m with
  | zero => rfl
  | succ m => rw [quadsLoop, if_neg (quadGoes_iff.not.mp hgoes)]

/-! ### Positions -/

theorem pos_of_pairSteps (hP : ∀ k, k < n → PairStep s c (P k) (P (k + 1))) : (P n).pos = (P 0).pos + 2 * n := by
  induction n with
  | zero => rfl
  | succ n ih =>
    obtain ⟨x, y, -, hpos, -⟩ := hP n (by omega)
    rw [hpos, ih fun k hk => hP k (by omega)]
    omega

theorem pos_of_quadSteps (hQ : ∀ k, k < n → QuadGoes c (Q k) ∧ QuadStep s c (Q k) (Q (k + 1))) :
    (Q n).pos = (Q 0).pos + 4 * n := by
  induction n with
  | zero => rfl
  | succ n ih =>
    obtain ⟨-, v, w, x, y, -, hpos, -⟩ := hQ n (by omega)
    rw [hpos, ih fun k hk => hQ k (by omega)]
    omega

/-- The loop test stops the quadruples before line 576 (`COUNT1_STOP`, 00_scope.md R10). -/
theorem pos_lt_of_quadSteps (hQ : ∀ k, k < n → QuadGoes c (Q k) ∧ QuadStep s c (Q k) (Q (k + 1))) (hn : 0 < n) :
    (Q n).pos < 576 := by
  obtain ⟨k, rfl⟩ := Nat.exists_eq_add_of_lt hn
  obtain ⟨⟨hlt, -⟩, v, w, x, y, -, hpos, -⟩ := hQ (0 + k) (by omega)
  omega

end

/-! ### The decode -/

section

variable {s : State} {ch : Ch} {h : HuffRun}

theorem huffDecode_eq_of_pairsLoop_ok {g : HuffRun}
    (hp : pairsLoop s (s.chan ch) (s.chan ch).bigValues (huffStart s ch) = .ok g) :
    huffDecode s ch = quadsLoop s (s.chan ch) 144 g := by
  rw [huffStart] at hp
  rw [huffDecode, hp]

theorem huffDecode_eq_of_pairsLoop_error
    (hp : pairsLoop s (s.chan ch) (s.chan ch).bigValues (huffStart s ch) = .error h) : huffDecode s ch = .error h := by
  rw [huffStart] at hp
  rw [huffDecode, hp]

theorem huffDecode_of_loops (hl : HuffLoops s ch h) : huffDecode s ch = .ok h := by
  obtain ⟨P, Q, n, hP0, hP, hQ0, hQ, hend, rfl⟩ := hl
  have hpairs : pairsLoop s (s.chan ch) (s.chan ch).bigValues (huffStart s ch) = .ok (Q 0) := by
    have := pairsLoop_of_steps hP 0
    rwa [Nat.zero_add, hP0, ← hQ0] at this
  have hfuel : n ≤ 144 := by
    have hpos := pos_of_quadSteps hQ
    obtain rfl | hn := Nat.eq_zero_or_pos n
    · omega
    · have := pos_lt_of_quadSteps hQ hn
      omega
  obtain ⟨m, hm⟩ := Nat.exists_eq_add_of_le' hfuel
  rw [huffDecode_eq_of_pairsLoop_ok hpairs, hm, quadsLoop_of_steps hQ, quadsLoop_of_not_quadGoes hend]

/-- A quadruple always decodes. -/
theorem decodeQuad_ne_none (s : State) (tableB : Bool) (r r' : Reader) : decodeQuad s tableB r ≠ (none, r') := by
  obtain ⟨q, r0, -, hcode, -⟩ := decodeQuadCode_spec s tableB r
  obtain ⟨v, r1, w, r2, x, r3, y, r4, -, -, -, -, hquad⟩ := decodeQuad_of_code hcode
  rw [hquad]
  exact nofun

/-- A decode that breaks does so at a pair. -/
theorem huffDecode_of_breaks (hb : HuffBreaks s ch h) : huffDecode s ch = .error h := by
  obtain ⟨P, m, hP0, hP, ⟨hm, r, hd, rfl⟩ | ⟨-, Q, n, -, -, -, r, hd, -⟩⟩ := hb
  · obtain ⟨k, hk⟩ := Nat.exists_eq_add_of_lt hm
    refine huffDecode_eq_of_pairsLoop_error ?_
    rw [hk, show m + k + 1 = k + 1 + m by omega, ← hP0, pairsLoop_of_steps hP, pairsLoop, tableFor_eq, hd]
  · exact absurd hd (decodeQuad_ne_none _ _ _ _)

theorem quadsLoop_ne_error (s : State) (c : Channel) (n : Nat) (g h : HuffRun) : quadsLoop s c n g ≠ .error h := by
  induction n generalizing g with
  | zero => exact nofun
  | succ n ih =>
    unfold quadsLoop
    split
    · split
      next hd => exact absurd hd (decodeQuad_ne_none _ _ _ _)
      next => exact ih _
    · exact nofun

theorem huffLoops_or_huffBreaks (s : State) (ch : Ch) : ∃ h, HuffLoops s ch h ∨ HuffBreaks s ch h := by
  cases hp : pairsLoop s (s.chan ch) (s.chan ch).bigValues (huffStart s ch) with
  | error h => exact ⟨h, .inr (huffBreaks_of_pair hp)⟩
  | ok g =>
    cases hq : quadsLoop s (s.chan ch) 144 g with
    | error h => exact absurd hq (quadsLoop_ne_error _ _ _ _ _)
    | ok h => exact ⟨h, .inl (huffLoops_of_ok ((huffDecode_eq_of_pairsLoop_ok hp).trans hq))⟩

/-- Where the loops end: at an even line, at most 576. -/
theorem pos_of_loops (hl : HuffLoops s ch h) (hbig : (s.chan ch).bigValues ≤ 288) : h.pos ≤ 576 ∧ h.pos % 2 = 0 := by
  obtain ⟨P, Q, n, hP0, hP, hQ0, hQ, -, rfl⟩ := hl
  have hpairs := pos_of_pairSteps hP
  have hquads := pos_of_quadSteps hQ
  rw [hP0, ← hQ0] at hpairs
  have hstart : (huffStart s ch).pos = 0 := rfl
  obtain rfl | hn := Nat.eq_zero_or_pos n
  · omega
  · have := pos_lt_of_quadSteps hQ hn
    omega

/-- The position after the roll-back (40_huffman.md R111). -/
theorem rollBack_pos_of_loops (hl : HuffLoops s ch h) (hbig : (s.chan ch).bigValues ≤ 288) (e : Nat) :
    (h.rollBack e).pos ≤ 576 ∧ (h.rollBack e).pos % 2 = 0 := by
  obtain ⟨hle, heven⟩ := pos_of_loops hl hbig
  simp only [HuffRun.rollBack]
  split <;> omega

end

/-! ### The ends of HUFF -/

section

variable {s t : State} {ch : Ch}

theorem huffCheck_passes (hbig : (s.chan ch).bigValues ≤ 288) (ht : s.tablesOk = true) (hsplit : SplitsOk s [ch]) :
    huffCheck s ch = none := by
  have husable : splitUsable s ch = true := by
    cases hm : (s.chan ch).mixed with
    | false => exact splitUsable_of_not_mixed hm
    | true => simp [splitUsable, ht, hsplit ch (List.mem_singleton_self ch) hm]
  simp [huffCheck, hbig, ht, husable]

theorem huffCheck_of_tooManyBigValues (hbig : 288 < (s.chan ch).bigValues) :
    huffCheck s ch = some (outOfRange s ch.isOne) := by
  simp [huffCheck, hbig]

theorem exec_huff_eq_finish (hlegal : channelsLegal s false ch = true) : exec (.huff ch) s = finish (huffBody s ch) := by
  rw [exec_eq_finish, commandBody, if_pos hlegal]

section

variable {h : HuffRun} (hlegal : channelsLegal s false ch = true) (hcheck : huffCheck s ch = none)

include hlegal hcheck

/-- Loops that end and latch nothing end HUFF well. -/
theorem exec_huff_of_loops (hl : HuffLoops s ch h) (hoob : h.rd.oob = false) :
    exec (.huff ch) s = .next (huffWrite s ch (h.rollBack (s.chan ch).regionEnd)).endDone := by
  have hlatch : (h.rollBack (s.chan ch).regionEnd).rd.oob = false := hoob
  simp only [exec_huff_eq_finish hlegal, huffBody, hcheck, huffDecode_of_loops hl, hlatch]
  rfl

/-- An invalid code ends HUFF with the run as it stood there. -/
theorem exec_huff_of_breaks (hb : HuffBreaks s ch h) :
    exec (.huff ch) s =
      .next ((huffBroken s ch h).endError
        { kind := .invalidHuffmanCode, info := errInfo (BitVec.ofNat 10 h.pos) ch.isOne h.rd.bitpos }) := by
  simp only [exec_huff_eq_finish hlegal, huffBody, hcheck, huffDecode_of_breaks hb, finish_err]

end

theorem huffWrite_chan (s : State) (ch : Ch) (h : HuffRun) :
    (huffWrite s ch h).chan ch = { s.chan ch with isi := h.lines, count1 := BitVec.ofNat 10 h.pos } := by
  cases ch <;> rfl

theorem huffBroken_chan (s : State) (ch : Ch) (h : HuffRun) :
    (huffBroken s ch h).chan ch =
      { s.chan ch with isi := h.brokenLines s.draws, count1 := Config.freeCount1 s.draws } := by
  cases ch <;> rfl

theorem getElem_lines (h : HuffRun) (i : Fin 576) : h.lines[i] = if i.val < h.pos then h.isi[i] else 0 :=
  Vector.getElem_ofFn i.isLt

theorem getElem_brokenLines (h : HuffRun) (draw : Nat) {i : Fin 576} (hi : i.val < h.pos) :
    (h.brokenLines draw)[i] = h.isi[i] :=
  (Vector.getElem_ofFn i.isLt).trans (if_pos hi)

/-! ### What HUFF leaves alone -/

/-- The state with what HUFF on `ch` can write taken from `t`. -/
def State.withHuff (s t : State) (ch : Ch) : State :=
  { s.setChan ch { s.chan ch with isi := (t.chan ch).isi, count1 := (t.chan ch).count1 } with
    bitpos := t.bitpos, status := t.status, errinfo := t.errinfo, draws := t.draws }

/-- The bytes in which HUFF on `ch` can show. -/
def huffShows (ch : Ch) (a : Nat) : Prop := statusBytes a ∨ errinfoBytes a ∨ huffBytes ch a

theorem readReg_withHuff {a : Nat} (h : ¬ huffShows ch a) : (s.withHuff t ch).readReg a = s.readReg a := by
  simp only [huffShows, huffBytes, statusBytes, errinfoBytes] at h
  unfold State.readReg
  cases ch with
  | c0 =>
    simp only [gcd3Bytes] at h
    split
    case h_2 | h_4 | h_5 | h_11 => omega
    all_goals rfl
  | c1 =>
    simp only [gcd3Bytes] at h
    split
    case h_2 | h_4 | h_5 | h_15 => omega
    all_goals rfl

theorem lt_of_regionOf_regs {a : Nat} (h : regionOf a = .regs) : a < 0x100 :=
  Nat.lt_of_not_le fun hle => regionOf_ne_regs hle h

/-- The bytes of a register show together. -/
theorem not_huffShows_aligned {a : Nat} (ha : a < 0x100) (h : ¬ huffShows ch a) : ¬ huffShows ch (a - a % 4) := by
  cases ch <;> simp only [huffShows, huffBytes, statusBytes, errinfoBytes, gcd3Bytes, isiBytes] at h ⊢ <;> omega

theorem isiChannel_ne_of_not_huffShows {a : Nat} (hr : regionOf a = .isi) (h : ¬ huffShows ch a) : isiChannel a ≠ ch := by
  obtain ⟨lo, hi⟩ := bounds_of_regionOf_isi hr
  simp only [huffShows, huffBytes] at h
  cases ch with
  | c0 =>
    simp only [isiBytes] at h
    rw [isiChannel, if_neg (by omega)]
    exact nofun
  | c1 =>
    simp only [isiBytes] at h
    rw [isiChannel, if_pos (by omega)]
    exact nofun

theorem withHuff_sameBytes (s t : State) (ch : Ch) : SameBytes s (s.withHuff t ch) (huffShows ch) := by
  intro a h
  refine hostByte_congr (fun hr => ?_) (fun _ => ?_) (fun _ => ?_) (fun _ => ?_) (fun hr => ?_)
  · exact readReg_withHuff (not_huffShows_aligned (lt_of_regionOf_regs hr) h)
  · cases ch <;> cases sfChannel a <;> rfl
  · exact mdByte_congr (s.setChan_mem ch _) (s.setChan_mdDraw ch _) _
  · exact s.setChan_pcm ch _
  · exact congrArg Channel.isi (s.chan_setChan_of_ne (isiChannel_ne_of_not_huffShows hr h) _)

theorem huffFrame_of_eq_withHuff (h : t = s.withHuff t ch) : HuffFrame s t ch :=
  ⟨h, h ▸ withHuff_sameBytes s t ch⟩

theorem huffWrite_endDone_frame (s : State) (ch : Ch) (h : HuffRun) : HuffFrame s (huffWrite s ch h).endDone ch :=
  huffFrame_of_eq_withHuff (by cases ch <;> rfl)

theorem huffBroken_endError_frame (s : State) (ch : Ch) (h : HuffRun) (e : CmdError) :
    HuffFrame s ((huffBroken s ch h).endError e) ch :=
  huffFrame_of_eq_withHuff (by cases ch <;> rfl)

end

/-! ### The statements -/

/-- Settles O39: the check of HUFF fails. -/
theorem huffTooManyBigValues : Obligations.HuffTooManyBigValues := by
  intro s ch hlegal hbig
  rw [exec_huff_eq_finish hlegal, huffBody, huffCheck_of_tooManyBigValues hbig]
  rfl

/-- Settles O38: the decode breaks at the invalid code, and HUFF ends with the run as it stood there. -/
theorem huffInvalidCode : Obligations.HuffInvalidCode := by
  intro s ch h hlegal hbig ht hsplit hb
  refine ⟨_, exec_huff_of_breaks hlegal (huffCheck_passes hbig ht hsplit) hb, fun i hi => ?_, rfl, rfl,
    huffBroken_endError_frame s ch h _⟩
  rw [State.endError_chan, huffBroken_chan]
  exact getElem_brokenLines h s.draws hi

/-- Settles O35: the loops end or break; where they end without a latch, HUFF writes their lines up to the roll-back. -/
theorem huffResult : Obligations.HuffResult := by
  refine ⟨huffLoops_or_huffBreaks, fun s ch h hlegal hbig ht hsplit hl hoob => ?_⟩
  obtain ⟨hle, heven⟩ := rollBack_pos_of_loops hl hbig (s.chan ch).regionEnd
  refine ⟨_, _, exec_huff_of_loops hlegal (huffCheck_passes hbig ht hsplit) hl hoob, rfl, hle, heven, ?_, fun i => ?_,
    BitVec.toNat_ofNat .., ?_, s.setChan_errinfo ch _, s.setChan_draws ch _, huffWrite_endDone_frame s ch _⟩
  · rw [State.endDone_chan, huffWrite_chan]
    exact (BitVec.toNat_ofNat ..).trans (Nat.mod_eq_of_lt (by omega))
  · rw [State.endDone_chan, huffWrite_chan]
    exact getElem_lines _ i
  · simp [huffWrite, HuffRun.rollBack, Reader.setTo, hoob, doneStatus]

/-! ### The empty region (40_huffman.md R104, R114) -/

/-- The run after `k` pairs of table 0 from line 0: zeros, and no bit read (40_huffman.md R104). -/
def zeroPairs (h : HuffRun) (k : Nat) : HuffRun :=
  { h with isi := Vector.ofFn fun i => if i.val < 2 * k then 0 else h.isi[i], pos := 2 * k }

theorem getElem_zeroPairs (h : HuffRun) (k : Nat) (i : Fin 576) :
    (zeroPairs h k).isi[i] = if i.val < 2 * k then 0 else h.isi[i] :=
  Vector.getElem_ofFn i.isLt

section

variable {s : State} {ch : Ch} (h0 : (s.chan ch).tsel0 = 0) (h1 : (s.chan ch).tsel1 = 0) (h2 : (s.chan ch).tsel2 = 0)

include h0 h1 h2

theorem selectedTable_eq_zero (p : Nat) : selectedTable s (s.chan ch) p = 0 := by
  simp [selectedTable, h0, h1, h2]

theorem pairStep_zeroPairs (h : HuffRun) (k : Nat) : PairStep s (s.chan ch) (zeroPairs h k) (zeroPairs h (k + 1)) := by
  refine ⟨0, 0, ?_, rfl, fun i => ?_⟩
  · rw [selectedTable_eq_zero h0 h1 h2]
    exact decodePair_table_zero s _
  · have hpos : (zeroPairs h k).pos = 2 * k := rfl
    rw [getElem_zeroPairs, getElem_zeroPairs, hpos]
    obtain hi | hi | hi | hi : i.val < 2 * k ∨ i.val = 2 * k ∨ i.val = 2 * k + 1 ∨ 2 * (k + 1) ≤ i.val := by omega
    · simp (disch := omega) only [if_pos, if_neg]
    · simp (disch := omega) only [if_pos]
      rfl
    · simp (disch := omega) only [if_pos, if_neg]
      rfl
    · simp (disch := omega) only [if_neg]

theorem huffLoops_of_emptyRegion (hlen : (s.chan ch).part23Len = 0) (hcursor : s.bitpos = (s.chan ch).part2Start) :
    HuffLoops s ch (zeroPairs (huffStart s ch) (s.chan ch).bigValues) := by
  refine ⟨zeroPairs (huffStart s ch), fun _ => zeroPairs (huffStart s ch) (s.chan ch).bigValues, 0, ?_,
    fun k _ => pairStep_zeroPairs h0 h1 h2 (huffStart s ch) k, rfl, fun k hk => absurd hk k.not_lt_zero, ?_, rfl⟩
  · exact huffRun_eq (fun i => getElem_zeroPairs _ 0 i) rfl rfl
  · rintro ⟨-, hlt⟩
    rw [hlen, ← hcursor] at hlt
    exact absurd hlt (Nat.lt_irrefl _)

end

/-- Settles O36: every pair is (0, 0), there is no quadruple, and the roll-back undoes nothing. -/
theorem huffEmptyRegion : Obligations.HuffEmptyRegion := by
  intro s ch hlegal hbig ht hsplit hlen h0 h1 h2 hcursor
  obtain ⟨t, p, hexec, hp, -, -, hcount, hisi, hbitpos, hstatus, herrinfo, -, hframe⟩ :=
    huffResult.2 s ch _ hlegal hbig ht hsplit (huffLoops_of_emptyRegion h0 h1 h2 hlen hcursor) rfl
  have hnot : ¬ (s.chan ch).part2Start.toNat + (s.chan ch).part23Len < s.bitpos.toNat := by
    rw [hlen, ← hcursor]
    exact Nat.lt_irrefl _
  obtain rfl : p = 2 * (s.chan ch).bigValues := hp.trans (if_neg hnot)
  refine ⟨t, hexec, hcount, fun i => ?_, ?_, hstatus, herrinfo, hframe⟩
  · rw [hisi i, getElem_zeroPairs]
    split_ifs <;> rfl
  · refine BitVec.eq_of_toNat_eq ?_
    rw [hbitpos, hlen, ← hcursor]
    exact Nat.mod_eq_of_lt s.bitpos.isLt

end Sys2Proof.Machine

/-! ## Commands that write only `XR`

REQUANT, REORDER, STEREO write the spectra and nothing else the host can read; a per-channel one gives every channel of
its set a spectrum that depends on the configuration and on that channel alone. -/

namespace Sys2Proof.Machine

open Claims

/-! ### The frame -/

/-- The state with both spectra replaced. -/
def State.withXr (s : State) (x0 x1 : Vector Rat 576) : State :=
  { s with chan0 := { s.chan0 with xr := x0 }, chan1 := { s.chan1 with xr := x1 } }

theorem withXr_self (s : State) : s.withXr s.chan0.xr s.chan1.xr = s := rfl

section

variable (s : State) (x : Vector Rat 576)

@[simp] theorem setXr_c0_chan0 : (s.setXr .c0 x).chan0 = { s.chan0 with xr := x } := rfl

@[simp] theorem setXr_c0_chan1 : (s.setXr .c0 x).chan1 = s.chan1 := rfl

@[simp] theorem setXr_c1_chan0 : (s.setXr .c1 x).chan0 = s.chan0 := rfl

@[simp] theorem setXr_c1_chan1 : (s.setXr .c1 x).chan1 = { s.chan1 with xr := x } := rfl

end

theorem setXr_c0_setXr_c1 (s : State) (x0 x1 : Vector Rat 576) :
    (s.setXr .c0 x0).setXr .c1 x1 = s.withXr x0 x1 := rfl

theorem setXr_withXr (s : State) (x0 x1 x : Vector Rat 576) (ch : Ch) :
    ∃ y0 y1, (s.withXr x0 x1).setXr ch x = s.withXr y0 y1 := by
  cases ch with
  | c0 => exact ⟨x, x1, rfl⟩
  | c1 => exact ⟨x0, x, rfl⟩

theorem hostByte_withXr (s : State) (x0 x1 : Vector Rat 576) (a : Nat) : (s.withXr x0 x1).hostByte a = s.hostByte a :=
  hostByte_congr (fun _ => rfl) (fun _ => by cases sfChannel a <;> rfl) (fun _ => rfl) (fun _ => rfl)
    (fun _ => by cases isiChannel a <;> rfl)

/-- The end of a command shows in `STATUS` only. -/
theorem readReg_endDone (s : State) {a : Nat} (h : a ≠ 0x004) : s.endDone.readReg a = s.readReg a := by
  unfold State.readReg
  split
  case h_2 => exact absurd rfl h
  all_goals rfl

theorem endDone_sameBytes (s : State) : SameBytes s s.endDone statusBytes := by
  intro a ha
  refine hostByte_congr (fun _ => readReg_endDone s ?_) (fun _ => ?_) (fun _ => rfl) (fun _ => rfl) (fun _ => ?_)
  · simp only [statusBytes] at ha
    omega
  · rw [State.endDone_chan]
  · rw [State.endDone_chan]

theorem xrOnly_withXr_endDone (s : State) (x0 x1 : Vector Rat 576) : XrOnly s (s.withXr x0 x1).endDone :=
  ⟨rfl, fun a ha => (endDone_sameBytes _ a ha).trans (hostByte_withXr s x0 x1 a)⟩

/-! ### Per-channel commands -/

/-- The effect on a channel replaces its spectrum by `f`, which reads no spectrum but the channel's own. -/
structure XrEffect (effect : State → Ch → State) (f : State → Channel → Vector Rat 576) : Prop where
  eq_setXr : ∀ s ch, effect s ch = s.setXr ch (f s (s.chan ch))
  blind : ∀ (s : State) ch x, f (s.setXr ch x) = f s

namespace XrEffect

variable {effect : State → Ch → State} {f : State → Channel → Vector Rat 576} (he : XrEffect effect f)

include he

theorem foldl_eq_withXr (s : State) (l : List Ch) : ∃ x0 x1, l.foldl effect s = s.withXr x0 x1 := by
  refine foldl_keeps (P := fun u => ∃ x0 x1, u = s.withXr x0 x1) (fun u ch hu => ?_) l ⟨_, _, (withXr_self s).symm⟩
  obtain ⟨x0, x1, rfl⟩ := hu
  rw [he.eq_setXr]
  exact setXr_withXr s x0 x1 _ ch

/-- Each channel of the set gets its spectrum, the others keep theirs. -/
theorem foldl_xr (s : State) (all : Bool) (ch c : Ch) :
    (((chans s all ch).foldl effect s).chan c).xr =
      if c ∈ chans s all ch then f s (s.chan c) else (s.chan c).xr := by
  obtain h | h | h := chans_cases s all ch
  all_goals
    rw [h]
    cases c <;> simp [he.eq_setXr, he.blind]

/-- A per-channel command whose operand is legal and whose checks pass. -/
theorem perChannel_result {check : State → Ch → Option CmdError} {s : State} {all : Bool} {ch : Ch}
    (hlegal : channelsLegal s all ch = true) (hcheck : ∀ c ∈ chans s all ch, check s c = none) :
    ∃ t, finish (perChannel check effect all ch s) = .next t ∧ XrOnly s t ∧
      (∀ c ∈ chans s all ch, (t.chan c).xr = f s (s.chan c)) ∧
      (∀ c, c ∉ chans s all ch → (t.chan c).xr = (s.chan c).xr) := by
  have hbody : perChannel check effect all ch s = .ok ((chans s all ch).foldl effect s) := by
    have hnone : (chans s all ch).findSome? (check s) = none := List.findSome?_eq_none_iff.mpr hcheck
    simp only [perChannel, hlegal, hnone, if_true]
  obtain ⟨x0, x1, hfold⟩ := he.foldl_eq_withXr s (chans s all ch)
  refine ⟨_, by rw [hbody, finish_ok], ?_, fun c hc => ?_, fun c hc => ?_⟩
  · rw [hfold]
    exact xrOnly_withXr_endDone s x0 x1
  · rw [State.endDone_chan, he.foldl_xr, if_pos hc]
  · rw [State.endDone_chan, he.foldl_xr, if_neg hc]

end XrEffect

/-- Usable tables and splits (10_state.md R44), channel by channel. -/
theorem splitUsable_of_splitsOk {s : State} {l : List Ch} (ht : s.tablesOk = true) (hs : SplitsOk s l) {c : Ch}
    (hc : c ∈ l) : splitUsable s c = true := by
  cases hm : (s.chan c).mixed with
  | false => exact splitUsable_of_not_mixed hm
  | true => simp [splitUsable, ht, hs c hc hm]

theorem requantCheck_of_splitsOk {s : State} {l : List Ch} (ht : s.tablesOk = true) (hs : SplitsOk s l) :
    ∀ c ∈ l, requantCheck s c = none :=
  fun _ hc => requantCheck_passes ht (splitUsable_of_splitsOk ht hs hc)

end Sys2Proof.Machine

/-! ## REQUANT and REORDER (41_requant_stereo.md R130 to R140) -/

namespace Sys2Proof.Machine

open Claims

/-! ### The bands of a line

The band tables rise, so a line lies in one band only. -/

/-- A value from `f 0` up to below `f n` lies in one of the steps of `f`. -/
theorem exists_step {f : Nat → Nat} {i n : Nat} (h0 : f 0 ≤ i) (hn : i < f n) : ∃ b < n, f b ≤ i ∧ i < f (b + 1) := by
  induction n with
  | zero => exact absurd hn (Nat.not_lt.mpr h0)
  | succ n ih =>
    obtain hlt | hle := Nat.lt_or_ge i (f n)
    · obtain ⟨b, hb, hstep⟩ := ih hlt
      exact ⟨b, by omega, hstep⟩
    · exact ⟨n, n.lt_succ_self, hle, hn⟩

/-- The search for the step of a rising `f` finds it. -/
theorem find?_step {f : Nat → Nat} (hf : Monotone f) {i b n : Nat} (hb : b < n) (lo : f b ≤ i) (hi : i < f (b + 1)) :
    (List.range n).find? (fun b => decide (f b ≤ i ∧ i < f (b + 1))) = some b := by
  rw [List.find?_range_eq_some]
  refine ⟨decide_eq_true ⟨lo, hi⟩, List.mem_range.mpr hb, fun c hc => ?_⟩
  have hle : f (c + 1) ≤ f b := hf hc
  simp only [Bool.not_eq_true', decide_eq_false_iff_not]
  omega

/-- A table of `n` entries starts at 0 and rises up to 576, which `entry` gives past its end. -/
def Rises (T : List Nat) (n : Nat) : Prop :=
  T.length = n ∧ entry T 0 = 0 ∧ ∀ b < n, entry T b ≤ entry T (b + 1)

theorem Rises.monotone {T : List Nat} {n : Nat} (h : Rises T n) : Monotone (entry T) := by
  obtain ⟨hlen, -, hstep⟩ := h
  refine monotone_nat_of_le_succ fun b => ?_
  obtain hb | hb := Nat.lt_or_ge b n
  · exact hstep b hb
  · simp [entry, hlen, show n ≤ b + 1 by omega, hb]

theorem sfbLong_rises (v r : Nat) : Rises (sfbLong v r) 23 ∧ entry (sfbLong v r) 22 = 576 := by
  unfold sfbLong Rises
  split <;> decide

theorem sfbShort_rises (v r : Nat) : Rises (sfbShort v r) 14 ∧ entry (sfbShort v r) 13 = 192 := by
  unfold sfbShort Rises
  split <;> decide

section bands

variable (s : State)

theorem State.longTable_monotone : Monotone (entry s.longTable) := (sfbLong_rises _ _).1.monotone

theorem State.shortTable_monotone : Monotone (entry s.shortTable) := (sfbShort_rises _ _).1.monotone

theorem State.longTable_zero : entry s.longTable 0 = 0 := (sfbLong_rises _ _).1.2.1

theorem State.longTable_end : entry s.longTable 22 = 576 := (sfbLong_rises _ _).2

theorem State.shortTable_end : entry s.shortTable 13 = 192 := (sfbShort_rises _ _).2

variable {s}

theorem longBand_eq {b i : Nat} (hb : b < 22) (lo : entry s.longTable b ≤ i) (hi : i < entry s.longTable (b + 1)) :
    longBand s.longTable i = b := by
  rw [longBand, find?_step s.longTable_monotone hb lo hi, Option.getD_some]

theorem longBand_spec {i : Nat} (hi : i < 576) :
    entry s.longTable (longBand s.longTable i) ≤ i ∧ i < entry s.longTable (longBand s.longTable i + 1) := by
  obtain ⟨b, hb, lo, hi⟩ : ∃ b < 22, entry s.longTable b ≤ i ∧ i < entry s.longTable (b + 1) :=
    exists_step (by rw [s.longTable_zero]; exact i.zero_le) (by rw [s.longTable_end]; exact hi)
  rw [longBand_eq hb lo hi]
  exact ⟨lo, hi⟩

theorem shortBand_eq {b i : Nat} (hb : b < 13) (lo : 3 * entry s.shortTable b ≤ i)
    (hi : i < 3 * entry s.shortTable (b + 1)) : shortBand s.shortTable i = b := by
  have hmono : Monotone fun b => 3 * entry s.shortTable b := fun _ _ h => Nat.mul_le_mul_left 3 (s.shortTable_monotone h)
  rw [shortBand, find?_step hmono hb lo hi, Option.getD_some]

/-- Short band `b` holds three windows of its width. -/
theorem shortTable_succ (b : Nat) :
    entry s.shortTable (b + 1) = entry s.shortTable b + shortWidth s.shortTable b := by
  have := s.shortTable_monotone (Nat.le_add_right b 1)
  simp only [shortWidth]
  omega

end bands

/-! ### A short band's lines, before and after reorder (41_requant_stereo.md R134, R140) -/

section shortLines

variable {s : State} {b w j : Nat} (hb : b < 13) (hw : w < 3) (hj : j < shortWidth s.shortTable b)

include hb hw hj

/-- Before reorder: the windows of a band stand one after another. -/
theorem shortBand_windowed :
    shortBand s.shortTable (3 * entry s.shortTable b + w * shortWidth s.shortTable b + j) = b := by
  have hwin : w * shortWidth s.shortTable b ≤ 2 * shortWidth s.shortTable b := Nat.mul_le_mul_right _ (by omega)
  exact shortBand_eq hb (by omega) (by rw [shortTable_succ]; omega)

theorem shortWindow_windowed :
    shortWindow s.shortTable (3 * entry s.shortTable b + w * shortWidth s.shortTable b + j) = w := by
  rw [shortWindow, shortBand_windowed hb hw hj, Nat.add_assoc, Nat.add_sub_cancel_left, Nat.mul_comm,
    Nat.mul_add_div (by omega), Nat.div_eq_of_lt hj, Nat.add_zero]

/-- After reorder: the windows of a band are interleaved. -/
theorem shortBand_interleaved : shortBand s.shortTable (3 * entry s.shortTable b + 3 * j + w) = b :=
  shortBand_eq hb (by omega) (by rw [shortTable_succ]; omega)

theorem interleaved_lt : 3 * entry s.shortTable b + 3 * j + w < 576 := by
  have hend : entry s.shortTable (b + 1) ≤ 192 := s.shortTable_end ▸ s.shortTable_monotone hb
  rw [shortTable_succ] at hend
  omega

theorem reorderSource_interleaved :
    reorderSource s.shortTable (3 * entry s.shortTable b + 3 * j + w) =
      3 * entry s.shortTable b + w * shortWidth s.shortTable b + j := by
  have hwin : (3 * entry s.shortTable b + 3 * j + w - 3 * entry s.shortTable b) % 3 = w := by omega
  have hpos : (3 * entry s.shortTable b + 3 * j + w - 3 * entry s.shortTable b) / 3 = j := by omega
  simp only [reorderSource, shortBand_interleaved hb hw hj, hwin, hpos]

end shortLines

/-! ### REQUANT -/

/-- The spectrum REQUANT gives a channel (41_requant_stereo.md R130). -/
def requantXr (s : State) (c : Channel) : Vector Rat 576 := Vector.ofFn fun i => fp (requantFormula s c i.val)

theorem requantEffect_xr : XrEffect requantEffect requantXr := ⟨fun _ _ => rfl, fun _ ch _ => by cases ch <;> rfl⟩

/-- A zero line is requantized to zero. -/
theorem fp_requantFormula_zero (s : State) {c : Channel} {i : Nat} (h : c.isiLine i = 0) : fp (requantFormula s c i) = 0 := by
  refine fp_of_exact_zero (Formula.exact?_mul_zero_left _ (Formula.exact?_mul_zero_left _ ?_))
  rw [h]
  rfl

theorem isiLine_eq_zero {c : Channel} {i : Fin 576} (h : c.isi[i] = 0) : c.isiLine i.val = 0 := by
  have h' : c.isi[i.val] = 0 := h
  simp [Channel.isiLine, h']

/-- Settles O41: the checks of the set pass, and the effect on a channel writes the rounded formulas. -/
theorem requantResult : Obligations.RequantResult := by
  intro s all ch hlegal ht hsplit
  obtain ⟨t, hexec, hframe, hin, hout⟩ :=
    requantEffect_xr.perChannel_result hlegal (requantCheck_of_splitsOk ht hsplit)
  refine ⟨t, hexec, hframe, fun c hc i => ?_, hout⟩
  have hline : (t.chan c).xr[i] = fp (requantFormula s (s.chan c) i.val) := by
    rw [hin c hc]
    exact Vector.getElem_ofFn i.isLt
  exact ⟨hline, fun h => hline.trans (fp_requantFormula_zero s (isiLine_eq_zero h))⟩

/-! ### The value of the requantization formula -/

theorem signOf_eq_sign (n : Int) : signOf n = n.sign := by
  unfold signOf
  split_ifs with hneg hzero
  · exact (Int.sign_eq_neg_one_of_neg hneg).symm
  · rw [hzero, Int.sign_zero]
  · exact (Int.sign_eq_one_of_pos (by omega)).symm

/-- The value of the formula, its powers of 2 gathered in one exponent (41_requant_stereo.md R131, R132). -/
theorem requantFormula_denotes (s : State) (c : Channel) (i : Nat) {x : ℝ}
    (hx : x = ((c.isiLine i).sign : ℝ) * |((c.isiLine i : Int) : ℝ)| ^ ((4 : ℝ) / 3) *
      (2 : ℝ) ^ ((gainQuarters s c i : ℝ) / 4)) :
    (requantFormula s c i).Denotes x := by
  refine ⟨_, _, ⟨_, _, rfl, rfl, rfl⟩, rfl, ?_⟩
  rw [hx, signOf_eq_sign, Nat.cast_natAbs, Rat.mkRat_eq_div, Rat.mkRat_eq_div]
  push_cast
  rfl

/-- Settles O42: the exponent of 2 is the sum of the rule's exponents for the line's band. -/
theorem requantLongLineValue : Obligations.RequantLongLineValue := by
  intro s c i b _ hlong hb lo hi
  refine requantFormula_denotes s c i ?_
  rw [mul_assoc, ← Real.rpow_add two_pos]
  congr 2
  simp only [gainQuarters, hlong, longBand_eq hb lo hi, longScale, Bool.false_eq_true, if_false]
  split_ifs <;> push_cast <;> ring

/-- Settles O43: the exponent of 2 is the sum of the rule's exponents for the line's band and window. -/
theorem requantShortLineValue : Obligations.RequantShortLineValue := by
  intro s c b w j _ hb hw hj hshort i hi
  have hband : shortBand s.shortTable i = b := by
    rw [hi]
    exact shortBand_windowed hb hw hj
  have hwindow : shortWindow s.shortTable i = w := by
    rw [hi]
    exact shortWindow_windowed hb hw hj
  rw [← hi] at hshort
  refine requantFormula_denotes s c i ?_
  rw [mul_assoc, mul_assoc, ← Real.rpow_add two_pos, ← Real.rpow_add two_pos]
  congr 2
  simp only [gainQuarters, hshort, hband, hwindow, shortScale, sbgExp, if_true]
  split_ifs <;> push_cast <;> ring

/-! ### REORDER -/

/-- The spectrum REORDER gives a channel (41_requant_stereo.md R140). -/
def reorderXr (s : State) (c : Channel) : Vector Rat 576 :=
  Vector.ofFn fun i => if c.lineShort i.val then c.xrLine (reorderSource s.shortTable i.val) else c.xr[i]

theorem reorderEffect_xr : XrEffect reorderEffect reorderXr := ⟨fun _ _ => rfl, fun _ ch _ => by cases ch <;> rfl⟩

/-- Settles O44: long lines stay, and the source of an interleaved short line is its windowed place. -/
theorem reorderResult : Obligations.ReorderResult := by
  intro s all ch hlegal ht hsplit
  obtain ⟨t, hexec, hframe, hin, hout⟩ :=
    reorderEffect_xr.perChannel_result hlegal (requantCheck_of_splitsOk ht hsplit)
  refine ⟨t, hexec, hframe, fun c hc => ⟨fun i hlong => ?_, fun b w j hb hw hj hshort => ?_⟩, hout⟩
  · rw [hin c hc]
    exact (Vector.getElem_ofFn i.isLt).trans (if_neg (by simp [hlong]))
  · rw [Channel.xrLine, hin c hc, reorderXr, look_ofFn _ _ (interleaved_lt hb hw hj), if_pos hshort,
      reorderSource_interleaved hb hw hj]
    rfl

end Sys2Proof.Machine

/-! ## STEREO (41_requant_stereo.md R145 to R151) -/

namespace Sys2Proof.Machine

open Claims

/-! ### The matrix -/

theorem stereoEffect_eq_withXr (s : State) :
    stereoEffect s =
      s.withXr (Vector.ofFn fun i => (stereoPair s i.val).1) (Vector.ofFn fun i => (stereoPair s i.val).2) :=
  setXr_c0_setXr_c1 s _ _

theorem getElem_stereoEffect_c0 (s : State) (i : Fin 576) : (stereoEffect s).chan0.xr[i] = (stereoPair s i.val).1 :=
  Vector.getElem_ofFn i.isLt

theorem getElem_stereoEffect_c1 (s : State) (i : Fin 576) : (stereoEffect s).chan1.xr[i] = (stereoPair s i.val).2 :=
  Vector.getElem_ofFn i.isLt

theorem xrLine_eq_getElem (c : Channel) (i : Fin 576) : c.xrLine i.val = c.xr[i] := look_lt c.xr 0 i.isLt

section pair

variable {s : State} (i : Fin 576)

theorem stereoPair_intensity {kL kR : Formula} (hon : s.isOn = true) (h : intensityLine s i.val = some (kL, kR)) :
    stereoPair s i.val = (fp (.mul (.rat s.chan0.xr[i]) kL), fp (.mul (.rat s.chan0.xr[i]) kR)) := by
  rw [stereoPair, if_pos hon, h, xrLine_eq_getElem]
  rfl

theorem stereoPair_no_intensity (h : s.isOn = false ∨ intensityLine s i.val = none) :
    stereoPair s i.val = stereoLine none s.msOn s.chan0.xr[i] s.chan1.xr[i] := by
  have hnone : (if s.isOn then intensityLine s i.val else none) = none := by
    obtain h | h := h <;> simp [h]
  rw [stereoPair, hnone, xrLine_eq_getElem, xrLine_eq_getElem]

end pair

theorem stereoOutOfRange_eq_false {s : State} (ht : s.tablesOk = true) (hs : SplitsOk s [.c0, .c1]) :
    stereoOutOfRange s = false := by
  have h0 := splitUsable_of_splitsOk ht hs (c := .c0) (by decide)
  have h1 := splitUsable_of_splitsOk ht hs (c := .c1) (by decide)
  simp [stereoOutOfRange, ht, h0, h1]

theorem exec_stereo_of_not_joint {s : State} (h : s.chMode ≠ 1) : exec .stereo s = .next s.endDone := by
  rw [exec_eq_finish, commandBody, stereoBody, if_pos h, finish_ok]

theorem exec_stereo_of_joint {s : State} (hmode : s.chMode = 1) (h : stereoOutOfRange s = false) :
    exec .stereo s = .next (stereoEffect s).endDone := by
  rw [exec_eq_finish, commandBody, stereoBody, if_neg (not_not.mpr hmode), h, if_neg Bool.false_ne_true, finish_ok]

/-- Settles O45: the two values of a line, by its intensity factors and `MS_ON`. -/
theorem stereoResult : Obligations.StereoResult := by
  refine ⟨fun s h => exec_stereo_of_not_joint h, fun s hmode ht hsplit => ?_⟩
  have hframe : XrOnly s (stereoEffect s).endDone := by
    rw [stereoEffect_eq_withXr]
    exact xrOnly_withXr_endDone s _ _
  refine ⟨_, exec_stereo_of_joint hmode (stereoOutOfRange_eq_false ht hsplit), hframe, fun i => ?_⟩
  rw [State.endDone_chan0, State.endDone_chan1, getElem_stereoEffect_c0, getElem_stereoEffect_c1]
  refine ⟨fun kL kR hon hline => ?_, fun hnone => ?_⟩
  · rw [stereoPair_intensity i hon hline]
    exact ⟨rfl, rfl⟩
  · rw [stereoPair_no_intensity i hnone]
    refine ⟨fun hms => ?_, fun hms => ?_⟩
    all_goals
      rw [hms]
      exact ⟨rfl, rfl⟩

/-! ### The intensity factors (41_requant_stereo.md R149, R150) -/

theorem rat_one_denotes : (Formula.rat 1).Denotes 1 := Rat.cast_one.symm

theorem rat_zero_denotes : (Formula.rat 0).Denotes 0 := Rat.cast_zero.symm

/-- The tangent of R149. -/
theorem tanPi_denotes (p : Nat) : (Formula.tanPi (mkRat p 12)).Denotes (Real.tan (p * Real.pi / 12)) := by
  have hangle : (p : ℝ) * Real.pi / 12 = Real.pi * ((mkRat p 12 : Rat) : ℝ) := by
    rw [Rat.mkRat_eq_div]
    push_cast
    ring
  exact congrArg Real.tan hangle

/-- A power of `io` (41_requant_stereo.md R150). -/
theorem ioPow_denotes (intScale : Bool) (k : Nat) :
    (Formula.pow 2 (mkRat (-(k : Int)) (if intScale then 2 else 4))).Denotes
      (((2 : ℝ) ^ (if intScale then (-(1 / 2) : ℝ) else -(1 / 4))) ^ k) := by
  rw [Formula.Denotes, ← Real.rpow_natCast, ← Real.rpow_mul two_pos.le, Rat.mkRat_eq_div, Nat.cast_two]
  congr 1
  cases intScale <;> norm_num <;> ring

/-- Settles O46: the cases of the two tables of factors. -/
theorem intensityFactorValues : Obligations.IntensityFactorValues := by
  intro s p ill
  refine ⟨fun hv => ?_, fun hv => ?_⟩
  · rw [intensityFactors, if_pos hv]
    refine ⟨fun hp => if_pos hp, fun hp => ?_⟩
    rw [factorsMpeg1, if_neg (Nat.not_le.mpr hp)]
    obtain rfl | hp6 := eq_or_ne p 6
    · exact ⟨_, _, if_pos rfl, fun h => absurd h (by decide), fun _ => ⟨rat_one_denotes, rat_zero_denotes⟩⟩
    · have hsum : (Formula.add (.rat 1) (.tanPi (mkRat p 12))).Denotes (1 + Real.tan (p * Real.pi / 12)) :=
        ⟨_, _, rat_one_denotes, tanPi_denotes p, rfl⟩
      exact ⟨_, _, if_neg hp6, fun _ => ⟨⟨_, _, tanPi_denotes p, hsum, rfl⟩, ⟨_, _, rat_one_denotes, hsum, rfl⟩⟩,
        fun h => absurd h hp6⟩
  · rw [intensityFactors, if_neg hv]
    refine ⟨fun hill => if_pos hill, ?_⟩
    rintro rfl
    rw [factorsMpeg2, if_neg Bool.false_ne_true]
    obtain rfl | hp0 := eq_or_ne p 0
    · exact ⟨_, _, if_pos rfl, _, rfl, fun _ => ⟨rat_one_denotes, rat_one_denotes⟩, fun h => absurd h (by decide),
        fun _ h => absurd h (by decide)⟩
    · rw [if_neg hp0]
      obtain hodd | heven : p % 2 = 1 ∨ p % 2 = 0 := by omega
      · exact ⟨_, _, if_pos hodd, _, rfl, fun h => absurd h hp0, fun _ => ⟨ioPow_denotes _ _, rat_one_denotes⟩,
          fun h _ => by omega⟩
      · exact ⟨_, _, if_neg (by omega), _, rfl, fun h => absurd h hp0, fun h => by omega,
          fun _ _ => ⟨rat_one_denotes, ioPow_denotes _ _⟩⟩

/-! ### The intensity boundaries (41_requant_stereo.md R147) -/

/-- The search from the top finds nothing, or the highest index that satisfies `p`. -/
theorem find?_reverse_range_cases (p : Nat → Bool) (n : Nat) :
    ((List.range n).reverse.find? p = none ∧ ∀ j < n, p j = false) ∨
    ∃ i < n, (List.range n).reverse.find? p = some i ∧ p i = true ∧ ∀ j, i < j → j < n → p j = false := by
  induction n with
  | zero => exact .inl ⟨rfl, fun j hj => absurd hj j.not_lt_zero⟩
  | succ n ih =>
    rw [List.range_succ, List.reverse_append, List.reverse_singleton, List.singleton_append]
    cases hn : p n with
    | true => exact .inr ⟨n, n.lt_succ_self, List.find?_cons_of_pos hn, hn, fun j hlo hhi => by omega⟩
    | false =>
      rw [List.find?_cons_of_neg (by simp [hn])]
      have hstep {j : Nat} (hj : j < n + 1) (h : j < n → p j = false) : p j = false := by
        obtain hlt | rfl := Nat.lt_succ_iff_lt_or_eq.mp hj
        · exact h hlt
        · exact hn
      obtain ⟨hnone, hall⟩ | ⟨i, hi, hsome, hp, habove⟩ := ih
      · exact .inl ⟨hnone, fun j hj => hstep hj (hall j)⟩
      · exact .inr ⟨i, by omega, hsome, hp, fun j hlo hj => hstep hj (habove j hlo)⟩

section boundaries

variable {s : State}

/-- A long band is a candidate when no line from its start up is nonzero. -/
theorem longBoundary_le_iff (c : Channel) (b : Nat) :
    longBoundary s.longTable c ≤ b ↔ ∀ j, j < 576 → entry s.longTable b ≤ j → c.isiLine j = 0 := by
  obtain ⟨hnone, hall⟩ | ⟨i, hi, hsome, hp, habove⟩ :=
    find?_reverse_range_cases (fun i => decide (c.isiLine i ≠ 0)) 576
  · have hbound : longBoundary s.longTable c = 0 := by
      unfold longBoundary
      rw [hnone]
    rw [hbound]
    exact ⟨fun _ j hj _ => by simpa using hall j hj, fun _ => b.zero_le⟩
  · obtain ⟨hlo, hhi⟩ := longBand_spec (s := s) hi
    have hbound : longBoundary s.longTable c = longBand s.longTable i + 1 := by
      unfold longBoundary
      rw [hsome]
    rw [hbound]
    refine ⟨fun hband j hj hstart => ?_, fun hzero => ?_⟩
    · have hij : i < j := (hhi.trans_le (s.longTable_monotone hband)).trans_le hstart
      simpa using habove j hij hj
    · by_contra hband
      have hstart : entry s.longTable b ≤ i := (s.longTable_monotone (by omega)).trans hlo
      exact absurd (hzero i hi hstart) (by simpa using hp)

theorem shortBandNonzero_eq_false_iff (c : Channel) (b w : Nat) :
    shortBandNonzero s.shortTable c b w = false ↔ ∀ k, k < shortWidth s.shortTable b →
      c.isiLine (3 * entry s.shortTable b + w * shortWidth s.shortTable b + k) = 0 := by
  simp [shortBandNonzero]

/-- A short band of a window is a candidate when the window has no nonzero line in it or in a band above; in a mixed block
only the bands from 3. -/
theorem shortBoundary_le_iff (c : Channel) (w : Nat) {b : Nat} (hmixed : c.mixed = true → 3 ≤ b) :
    shortBoundary s.shortTable c w ≤ b ↔
      ∀ b' k, b ≤ b' → b' < 13 → k < shortWidth s.shortTable b' →
        c.isiLine (3 * entry s.shortTable b' + w * shortWidth s.shortTable b' + k) = 0 := by
  have hbase {m : Nat} (h : shortBoundary s.shortTable c w = if c.mixed then max 3 m else m) :
      shortBoundary s.shortTable c w ≤ b ↔ m ≤ b := by
    rw [h]
    split_ifs with hm
    · have := hmixed hm
      omega
    · rfl
  obtain ⟨hnone, hall⟩ | ⟨i, hi, hsome, hp, habove⟩ :=
    find?_reverse_range_cases (fun b => shortBandNonzero s.shortTable c b w) 13
  · rw [hbase (m := 0) (by rw [shortBoundary, hnone])]
    exact ⟨fun _ b' k _ hb' hk => (shortBandNonzero_eq_false_iff c b' w).mp (hall b' hb') k hk, fun _ => b.zero_le⟩
  · rw [hbase (m := i + 1) (by rw [shortBoundary, hsome])]
    refine ⟨fun hband b' k hbb' hb' hk => ?_, fun hzero => ?_⟩
    · exact (shortBandNonzero_eq_false_iff c b' w).mp (habove b' (by omega) hb') k hk
    · by_contra hband
      have hfalse := (shortBandNonzero_eq_false_iff c i w).mpr fun k => hzero i k (by omega) hi
      exact Bool.false_ne_true (hfalse.symm.trans hp)

end boundaries

/-! ### The intensity region -/

section region

variable {s : State}

theorem lineShort_of_not_short {c : Channel} (h : c.short = false) (i : Nat) : c.lineShort i = false := by
  simp [Channel.lineShort, Channel.pureShort, Channel.mixed, h]

theorem lineShort_of_short {c : Channel} (h : c.short = true) {i : Nat} (hi : c.mixed = true → 36 ≤ i) :
    c.lineShort i = true := by
  cases hm : c.mixed with
  | false => simp [Channel.lineShort, Channel.pureShort, h, hm]
  | true => simp [Channel.lineShort, hm, hi hm]

theorem lineShort_mixed_low {c : Channel} (hm : c.mixed = true) {i : Nat} (hi : i < 36) : c.lineShort i = false := by
  simp [Channel.lineShort, Channel.pureShort, hm, hi]

theorem short_of_mixed {c : Channel} (h : c.mixed = true) : c.short = true := (Bool.and_eq_true_iff.mp h).1

/-- A line of a long right channel. -/
theorem intensityLine_long (hlong : s.chan1.short = false) {b i : Nat} (hb : b < 22) (lo : entry s.longTable b ≤ i)
    (hi : i < entry s.longTable (b + 1)) :
    intensityLine s i =
      if longBoundary s.longTable s.chan1 ≤ b then intensityFactors s (longPosition s b) else none := by
  simp [intensityLine, lineShort_of_not_short hlong, hlong, longBand_eq hb lo hi]

/-- A short line of a short right channel, in the reordered layout. -/
theorem intensityLine_short {b w j : Nat} (hb : b < 13) (hw : w < 3) (hj : j < shortWidth s.shortTable b)
    (hshort : s.chan1.lineShort (3 * entry s.shortTable b + 3 * j + w) = true) :
    intensityLine s (3 * entry s.shortTable b + 3 * j + w) =
      if shortBoundary s.shortTable s.chan1 w ≤ b then intensityFactors s (shortPosition s b w) else none := by
  have hwin : (3 * entry s.shortTable b + 3 * j + w - 3 * entry s.shortTable b) % 3 = w := by omega
  simp only [intensityLine, hshort, shortBand_interleaved hb hw hj, hwin, if_true]

/-- A usable split puts short band 3 at line 36 (10_state.md R44). -/
theorem three_mul_entry_three (h : s.splitOk = true) : 3 * entry s.shortTable 3 = 36 :=
  of_decide_eq_true (Bool.and_eq_true_iff.mp h).2

end region

/-- Settles O47: a line's band is compared with the boundary of its class. -/
theorem intensityRegion : Obligations.IntensityRegion := by
  refine fun s _ => ⟨fun hlong b i hb lo hi => ?_, fun hshort hsplit b j w hb3 hb hw hj => ?_, fun hm i hi => ?_⟩
  · rw [intensityLine_long hlong hb lo hi]
    refine ⟨fun ⟨j, hj, hstart, hne⟩ => if_neg fun hle => ?_, fun hzero => ?_⟩
    · exact hne ((longBoundary_le_iff s.chan1 b).mp hle j hj hstart)
    · exact if_pos ((longBoundary_le_iff s.chan1 b).mpr hzero)
  · have hline : s.chan1.lineShort (3 * entry s.shortTable b + 3 * j + w) = true := by
      refine lineShort_of_short hshort fun hm => ?_
      have h36 := three_mul_entry_three (hsplit hm)
      have hstart := s.shortTable_monotone (hb3 hm)
      omega
    rw [intensityLine_short hb hw hj hline]
    refine ⟨fun ⟨b', k, hbb', hb', hk, hne⟩ => if_neg fun hle => ?_, fun hzero => ?_⟩
    · exact hne ((shortBoundary_le_iff s.chan1 w hb3).mp hle b' k hbb' hb' hk)
    · exact if_pos ((shortBoundary_le_iff s.chan1 w hb3).mpr hzero)
  · simp [intensityLine, lineShort_mixed_low hm hi, short_of_mixed hm]

end Sys2Proof.Machine

/-! ## ANTIALIAS and FREQINV (42_hybrid.md R160, R161, R175)

Both write `XR` alone, each channel's from that channel's own, so the lemmas about commands that write only `XR` give the
frame; what is left is the value of each line. -/

namespace Sys2Proof.Machine

open Claims

/-- Blocks the table row can split pass the check of ANTIALIAS and IMDCT (10_state.md R44). -/
theorem splitCheck_of_blocksOk {s : State} {l : List Ch} (h : BlocksOk s l) : ∀ c ∈ l, splitCheck s c = none := by
  refine fun c hc => splitCheck_passes ?_
  cases hm : (s.chan c).mixed with
  | false => exact splitUsable_of_not_mixed hm
  | true =>
    obtain ⟨ht, hs⟩ := h c hc hm
    simp [splitUsable, ht, hs]

/-! ### The butterflies -/

theorem antialiasBoundaries_eq (c : Channel) :
    antialiasBoundaries c = if c.short then (if c.mixed then 1 else 0) else 31 := by
  cases hm : c.mixed with
  | false => simp [antialiasBoundaries, Channel.pureShort, hm]
  | true => simp [antialiasBoundaries, Channel.pureShort, hm, short_of_mixed hm]

theorem antialiasBoundaries_le (c : Channel) : antialiasBoundaries c ≤ 31 := by
  rw [antialiasBoundaries_eq]
  split_ifs <;> decide

section butterfly

variable {c : Channel} {k j : Nat} (hk : 1 ≤ k) (hN : k ≤ antialiasBoundaries c) (hj : j < 8)

include hk hN hj

/-- The line of a butterfly below its boundary. -/
theorem antialiasLine_below :
    antialiasLine c (18 * k - 1 - j) =
      fp (.sub (.mul (.rat (c.xrLine (18 * k - 1 - j))) (antialiasCs j))
        (.mul (.rat (c.xrLine (18 * k + j))) (antialiasCa j))) := by
  have hsb : (18 * k - 1 - j) / 18 + 1 = k := by omega
  have ht : (18 * k - 1 - j) % 18 = 17 - j := by omega
  have hj' : 17 - (17 - j) = j := by omega
  simp only [antialiasLine, hsb, ht, hj']
  exact if_pos ⟨by omega, hN⟩

/-- The line of a butterfly above its boundary. -/
theorem antialiasLine_above :
    antialiasLine c (18 * k + j) =
      fp (.add (.mul (.rat (c.xrLine (18 * k + j))) (antialiasCs j))
        (.mul (.rat (c.xrLine (18 * k - 1 - j))) (antialiasCa j))) := by
  have hsb : (18 * k + j) / 18 = k := by omega
  have ht : (18 * k + j) % 18 = j := by omega
  simp only [antialiasLine, hsb, ht]
  rw [if_neg (by omega), if_pos ⟨hj, hk, hN⟩]

end butterfly

/-- A line in no butterfly stays. -/
theorem antialiasLine_outside {c : Channel} {i : Nat}
    (h : ∀ k j, 1 ≤ k → k ≤ antialiasBoundaries c → j < 8 → i ≠ 18 * k - 1 - j ∧ i ≠ 18 * k + j) :
    antialiasLine c i = c.xrLine i := by
  have hbelow : ¬(10 ≤ i % 18 ∧ i / 18 + 1 ≤ antialiasBoundaries c) := fun ⟨ht, hN⟩ => by
    have := (h (i / 18 + 1) (17 - i % 18) (by omega) hN (by omega)).1
    omega
  have habove : ¬(i % 18 < 8 ∧ 1 ≤ i / 18 ∧ i / 18 ≤ antialiasBoundaries c) := fun ⟨ht, hk, hN⟩ => by
    have := (h (i / 18) (i % 18) hk hN ht).2
    omega
  simp only [antialiasLine]
  rw [if_neg hbelow, if_neg habove]

/-! ### ANTIALIAS -/

/-- The spectrum ANTIALIAS gives a channel (42_hybrid.md R160). -/
def antialiasXr (c : Channel) : Vector Rat 576 := Vector.ofFn fun i => antialiasLine c i.val

theorem antialiasEffect_xr : XrEffect antialiasEffect fun _ => antialiasXr := ⟨fun _ _ => rfl, fun _ _ _ => rfl⟩

/-- Settles O48: a line is below a boundary, above one, or in no butterfly. -/
theorem antialiasResult : Obligations.AntialiasResult := by
  intro s all ch hlegal hblocks
  obtain ⟨t, hexec, hframe, hin, hout⟩ := antialiasEffect_xr.perChannel_result hlegal (splitCheck_of_blocksOk hblocks)
  refine ⟨t, hexec, hframe, fun c hc => ⟨antialiasBoundaries (s.chan c), antialiasBoundaries_eq _, ?_⟩, hout⟩
  have hline {i : Nat} (hi : i < 576) : (t.chan c).xrLine i = antialiasLine (s.chan c) i := by
    rw [Channel.xrLine, hin c hc, antialiasXr, look_ofFn _ _ hi]
  have hle := antialiasBoundaries_le (s.chan c)
  refine ⟨fun k j hk hN hj => ⟨?_, ?_⟩, fun i hi hnone => ?_⟩
  · rw [hline (by omega), antialiasLine_below hk hN hj]
  · rw [hline (by omega), antialiasLine_above hk hN hj]
  · rw [hline hi, antialiasLine_outside hnone]

/-! ### The coefficients -/

/-- The square root both coefficients divide by. -/
theorem sqrt_one_add_mul_self_denotes (q : Rat) :
    (Formula.sqrt (1 + q * q)).Denotes (Real.sqrt (1 + (q : ℝ) ^ 2)) := by
  rw [Formula.Denotes]
  push_cast
  rw [sq]

/-- `cs` and `ca` of one `CI` lie on the unit circle. -/
theorem sq_one_div_sqrt_add_sq_div_sqrt (c : ℝ) :
    (1 / Real.sqrt (1 + c ^ 2)) ^ 2 + (c / Real.sqrt (1 + c ^ 2)) ^ 2 = 1 := by
  have hpos : 0 < 1 + c ^ 2 := by positivity
  rw [div_pow, div_pow, Real.sq_sqrt hpos.le, one_pow, ← add_div, div_self hpos.ne']

/-- Settles O49: the coefficients are the quotients of R161 as they stand. -/
theorem antialiasCoefficients : Obligations.AntialiasCoefficients := by
  refine ⟨by norm_num [antialiasCi, Rat.mkRat_eq_div], fun i _ => ⟨_, _, ?_, ?_, rfl, rfl, ?_⟩⟩
  · exact ⟨_, _, rat_one_denotes, sqrt_one_add_mul_self_denotes _, rfl⟩
  · exact ⟨_, _, rfl, sqrt_one_add_mul_self_denotes _, rfl⟩
  · exact sq_one_div_sqrt_add_sq_div_sqrt _

/-! ### FREQINV -/

/-- The spectrum FREQINV gives a channel (42_hybrid.md R175). -/
def freqinvXr (c : Channel) : Vector Rat 576 :=
  Vector.ofFn fun i => if i.val / 18 % 2 = 1 ∧ i.val % 18 % 2 = 1 then -c.xr[i] else c.xr[i]

theorem freqinvEffect_xr : XrEffect freqinvEffect fun _ => freqinvXr := ⟨fun _ _ => rfl, fun _ _ _ => rfl⟩

/-- FREQINV on a legal operand. -/
theorem exec_freqinv {s : State} {all : Bool} {ch : Ch} (hlegal : channelsLegal s all ch = true) :
    ∃ t, exec (.freqinv all ch) s = .next t ∧ XrOnly s t ∧
      (∀ c ∈ chans s all ch, (t.chan c).xr = freqinvXr (s.chan c)) ∧
      (∀ c, c ∉ chans s all ch → (t.chan c).xr = (s.chan c).xr) :=
  freqinvEffect_xr.perChannel_result (check := noCheck) hlegal fun _ _ => rfl

/-- Negating the same lines twice restores them. -/
theorem freqinvXr_twice {c d : Channel} (h : d.xr = freqinvXr c) : freqinvXr d = c.xr := by
  ext i hi
  simp only [freqinvXr, h, Fin.getElem_fin, Vector.getElem_ofFn]
  split_ifs
  · exact neg_neg _
  · rfl

/-- A command that wrote only `XR` leaves the channel sets, and which operands are legal, as they were. -/
theorem chans_of_xrOnly {s t : State} (h : XrOnly s t) (all : Bool) (ch : Ch) : chans t all ch = chans s all ch := by
  rw [h.1]
  rfl

theorem channelsLegal_of_xrOnly {s t : State} (h : XrOnly s t) (all : Bool) (ch : Ch) :
    channelsLegal t all ch = channelsLegal s all ch := by
  rw [h.1]
  rfl

/-- Settles O54: the sign of a line is that of its subband and position, and a second run meets the same channel set. -/
theorem freqinvResult : Obligations.FreqinvResult := by
  intro s all ch hlegal
  obtain ⟨t, hexec, hframe, hin, hout⟩ := exec_freqinv hlegal
  have hset := chans_of_xrOnly hframe all ch
  obtain ⟨u, hexec', -, hin', hout'⟩ := exec_freqinv ((channelsLegal_of_xrOnly hframe all ch).trans hlegal)
  refine ⟨t, u, hexec, hframe, fun c hc sb k hsb hk => ?_, hout, hexec', fun c => ?_⟩
  · have hi : 18 * sb + k < 576 := by omega
    have hsb' : (18 * sb + k) / 18 = sb := by omega
    have hk' : (18 * sb + k) % 18 = k := by omega
    simp only [Channel.xrLine, hin c hc, freqinvXr, look_ofFn _ _ hi, look_lt _ _ hi, hsb', hk', Fin.getElem_fin]
  · by_cases hc : c ∈ chans s all ch
    · rw [hin' c (hset ▸ hc), freqinvXr_twice (hin c hc)]
    · rw [hout' c (hset ▸ hc), hout c hc]

end Sys2Proof.Machine

/-! ## IMDCT (42_hybrid.md R165 to R169) -/

namespace Sys2Proof.Machine

open Claims

/-! ### The transforms and the windows as real numbers -/

theorem sum_map_denotes {f : Nat → Formula} {g : Nat → ℝ} (h : ∀ k, (f k).Denotes (g k)) (l : List Nat) :
    (Formula.sum (l.map f)).Denotes (l.map g).sum := by
  induction l with
  | nil => exact rat_zero_denotes
  | cons k l ih => exact ⟨_, _, h k, ih, List.sum_cons⟩

/-- A formula's sum over `k < n` denotes the sum of what its terms denote. -/
theorem sum_range_denotes {f : Nat → Formula} {g : Nat → ℝ} (h : ∀ k, (f k).Denotes (g k)) (n : Nat) :
    (Formula.sum ((List.range n).map f)).Denotes (∑ k ∈ Finset.range n, g k) :=
  sum_map_denotes h (List.range n)

theorem sinPi_mkRat_denotes {n : Int} {d : Nat} {x : ℝ} (h : x = Real.pi * (n / d)) :
    (Formula.sinPi (mkRat n d)).Denotes (Real.sin x) := by
  rw [Formula.Denotes, Rat.mkRat_eq_div, h]
  push_cast
  rfl

theorem cosPi_mkRat_denotes {n : Int} {d : Nat} {x : ℝ} (h : x = Real.pi * (n / d)) :
    (Formula.cosPi (mkRat n d)).Denotes (Real.cos x) := by
  rw [Formula.Denotes, Rat.mkRat_eq_div, h]
  push_cast
  rfl

theorem rat_mul_denotes (q : Rat) {f : Formula} {y : ℝ} (h : f.Denotes y) :
    (Formula.mul (.rat q) f).Denotes ((q : ℝ) * y) :=
  ⟨_, _, rfl, h, rfl⟩

theorem longTransform_denotes (x : Nat → Rat) (i : Nat) :
    (longTransform x i).Denotes
      (∑ k ∈ Finset.range 18, ((x k : Rat) : ℝ) * Real.cos (Real.pi / 72 * (2 * i + 1 + 18) * (2 * k + 1))) :=
  sum_range_denotes (fun _ => rat_mul_denotes _ (cosPi_mkRat_denotes (by push_cast; ring))) 18

theorem shortTransform_denotes (x : Nat → Rat) (w p : Nat) :
    (shortTransform x w p).Denotes
      (∑ m ∈ Finset.range 6,
        ((x (w + 3 * m) : Rat) : ℝ) * Real.cos (Real.pi / 24 * (2 * p + 1 + 6) * (2 * m + 1))) :=
  sum_range_denotes (fun _ => rat_mul_denotes _ (cosPi_mkRat_denotes (by push_cast; ring))) 6

theorem shortSine_denotes (p : Nat) : (shortSine p).Denotes (Real.sin (Real.pi / 12 * (p + 1 / 2))) :=
  sinPi_mkRat_denotes (by push_cast; ring)

/-- The pieces of the windows (42_hybrid.md R168) one by one. -/
theorem longWindow_denotes (wt i : Nat) : (longWindow wt i).Denotes (winReal wt i) := by
  have hsine36 : (Formula.sinPi (mkRat (2 * i + 1) 72)).Denotes (Real.sin (Real.pi / 36 * (i + 1 / 2))) :=
    sinPi_mkRat_denotes (by push_cast; ring)
  simp only [longWindow, winReal]
  split_ifs
  · exact hsine36
  · exact rat_one_denotes
  · exact sinPi_mkRat_denotes (by push_cast; ring)
  · exact rat_zero_denotes
  · exact rat_zero_denotes
  · exact sinPi_mkRat_denotes (by push_cast; ring)
  · exact rat_one_denotes
  · exact hsine36
  · exact hsine36

/-! ### The output of a subband (42_hybrid.md R165) -/

theorem shortAccumulate_inside (x : Nat → Rat) {i w : Nat} (y : Rat) (h : 6 * w ≤ i ∧ i < 6 * w + 12) :
    shortAccumulate x i y w =
      fp (.add (.rat y) (.mul (shortSine (i - 6 * w)) (shortTransform x w (i - 6 * w)))) := by
  simp only [shortAccumulate, shortBase, Nat.zero_add, if_pos h]

theorem shortAccumulate_outside (x : Nat → Rat) {i w : Nat} (y : Rat) (h : ¬(6 * w ≤ i ∧ i < 6 * w + 12)) :
    shortAccumulate x i y w = y := by
  simp only [shortAccumulate, shortBase, Nat.zero_add, if_neg h]

/-- `y[i]` of a short subband after the first `w` windows. -/
def shortPartial (x : Nat → Rat) (i w : Nat) : Rat := (List.range w).foldl (shortAccumulate x i) 0

theorem shortPartial_succ (x : Nat → Rat) (i w : Nat) :
    shortPartial x i (w + 1) = shortAccumulate x i (shortPartial x i w) w := by
  rw [shortPartial, List.range_succ, List.foldl_append]
  rfl

theorem shortOutput_eq_shortPartial (x : Nat → Rat) (i : Nat) : shortOutput x i = shortPartial x i 3 := rfl

/-- Settles O53: formula by formula, and the short output window by window. -/
theorem transformsAndWindows : Obligations.TransformsAndWindows := by
  refine ⟨longTransform_denotes, shortTransform_denotes, fun wt i _ _ => longWindow_denotes wt i,
    fun p _ => shortSine_denotes p, fun x i => ?_⟩
  refine ⟨shortPartial x i, rfl, fun w _ => ⟨fun h => ?_, fun h => ?_⟩, shortOutput_eq_shortPartial x i⟩
  · rw [shortPartial_succ, shortAccumulate_inside x _ h]
  · rw [shortPartial_succ, shortAccumulate_outside x _ h]

/-- No window reaches the last third of a short subband's output. -/
theorem shortOutput_tail (x : Nat → Rat) {i : Nat} (hi : 24 ≤ i) : shortOutput x i = 0 := by
  have hkeep (y : Rat) {w : Nat} (hw : w < 3) : shortAccumulate x i y w = y :=
    shortAccumulate_outside x y (by omega)
  rw [shortOutput_eq_shortPartial, shortPartial_succ, hkeep _ (by decide), shortPartial_succ, hkeep _ (by decide),
    shortPartial_succ, hkeep _ (by decide)]
  rfl

/-- A sum whose coefficients are all 0 is seen to be 0. -/
theorem Formula.exact?_sum_of_zero_coefficients {q : Nat → Rat} (hq : ∀ k, q k = 0) (factor : Nat → Formula) (l : List Nat) :
    (Formula.sum (l.map fun k => .mul (.rat (q k)) (factor k))).exact? = some 0 := by
  refine Formula.exact?_sum_zero fun t ht => ?_
  obtain ⟨k, -, rfl⟩ := List.mem_map.mp ht
  rw [hq]
  exact Formula.exact?_mul_zero_left _ rfl

theorem Formula.exact?_zero_add (f : Formula) : (Formula.add (.rat 0) f).exact? = f.exact? := by
  simp [Formula.exact?]

/-- An array of zeros reads 0 everywhere, past its end too. -/
theorem look_eq_zero {m : Nat} {v : Vector Rat m} (h : ∀ i : Fin m, v[i] = 0) (i : Nat) : look v i 0 = 0 := by
  obtain hi | hi := Nat.lt_or_ge i m
  · rw [look_lt v 0 hi]
    exact h ⟨i, hi⟩
  · exact look_ge v 0 hi

section zeroInput

variable {x : Nat → Rat} (hx : ∀ k, x k = 0)

include hx

theorem longTransform_zero (i : Nat) : (longTransform x i).exact? = some 0 :=
  Formula.exact?_sum_of_zero_coefficients hx _ _

theorem shortTransform_zero (w p : Nat) : (shortTransform x w p).exact? = some 0 :=
  Formula.exact?_sum_of_zero_coefficients (fun m => hx (w + 3 * m)) _ _

theorem longOutput_zero (wt i : Nat) : longOutput wt x i = 0 :=
  fp_of_exact_zero (Formula.exact?_mul_zero_right _ (longTransform_zero hx i))

theorem shortAccumulate_zero (i w : Nat) : shortAccumulate x i 0 w = 0 := by
  by_cases h : 6 * w ≤ i ∧ i < 6 * w + 12
  · rw [shortAccumulate_inside x 0 h]
    refine fp_of_exact_zero ?_
    rw [Formula.exact?_zero_add, Formula.exact?_mul_zero_right _ (shortTransform_zero hx w _)]
  · exact shortAccumulate_outside x 0 h

theorem shortOutput_zero (i : Nat) : shortOutput x i = 0 :=
  List.foldlRecOn (motive := fun y => y = 0) _ _ rfl fun y hy w _ => by rw [hy, shortAccumulate_zero hx]

end zeroInput

/-! ### One channel -/

section channel

variable (c : Channel)

theorem subbandShort_iff (sb : Nat) :
    c.subbandShort sb = true ↔ (c.short = true ∧ c.mixed = false) ∨ (c.mixed = true ∧ 2 ≤ sb) := by
  simp [Channel.subbandShort, Channel.pureShort]

/-- The output of a subband of silence. -/
theorem imdctOutput_zero (hx : ∀ i, c.xrLine i = 0) (sb i : Nat) : imdctOutput c sb i = 0 := by
  simp only [imdctOutput]
  split_ifs
  · exact shortOutput_zero (fun _ => hx _) i
  · exact longOutput_zero (fun _ => hx _) _ i

variable {sb n : Nat} (hsb : sb < 32) (hn : n < 18)

include hsb hn

theorem imdctChannel_xrLine :
    (imdctChannel c).xrLine (18 * sb + n) = fp (.add (.rat (imdctOutput c sb n)) (.rat (c.prevAt sb n))) := by
  have hdiv : (18 * sb + n) / 18 = sb := by omega
  have hmod : (18 * sb + n) % 18 = n := by omega
  rw [Channel.xrLine, imdctChannel, look_ofFn _ _ (by omega)]
  simp only [hdiv, hmod]

theorem imdctChannel_prevAt : (imdctChannel c).prevAt sb n = imdctOutput c sb (n + 18) := by
  rw [Channel.prevAt, imdctChannel, look_ofFn _ _ hsb, look_ofFn _ _ hn]

end channel

/-! ### The frame -/

/-- The state with `XR` and `PREV` of both channels as in `u`. -/
def State.withXrPrev (s u : State) : State :=
  { s with
    chan0 := { s.chan0 with xr := u.chan0.xr, prev := u.chan0.prev }
    chan1 := { s.chan1 with xr := u.chan1.xr, prev := u.chan1.prev } }

theorem withXrPrev_self (s : State) : s.withXrPrev s = s := rfl

theorem imdctEffect_withXrPrev (s u : State) (ch : Ch) :
    imdctEffect (s.withXrPrev u) ch = s.withXrPrev (imdctEffect (s.withXrPrev u) ch) := by
  cases ch <;> rfl

theorem hostByte_withXrPrev (s u : State) (a : Nat) : (s.withXrPrev u).hostByte a = s.hostByte a :=
  hostByte_congr (fun _ => rfl) (fun _ => by cases sfChannel a <;> rfl) (fun _ => rfl) (fun _ => rfl)
    (fun _ => by cases isiChannel a <;> rfl)

theorem xrPrevOnly_withXrPrev_endDone (s u : State) : XrPrevOnly s (s.withXrPrev u).endDone :=
  ⟨rfl, fun a ha => (endDone_sameBytes _ a ha).trans (hostByte_withXrPrev s u a)⟩

theorem foldl_imdctEffect_eq_withXrPrev (s : State) (l : List Ch) : ∃ u, l.foldl imdctEffect s = s.withXrPrev u := by
  refine foldl_keeps (P := fun v => ∃ u, v = s.withXrPrev u) (fun v ch hv => ?_) l ⟨s, (withXrPrev_self s).symm⟩
  obtain ⟨u, rfl⟩ := hv
  exact ⟨_, imdctEffect_withXrPrev s u ch⟩

/-- Each channel of the set is transformed, the others stay. -/
theorem foldl_imdctEffect_chan (s : State) (all : Bool) (ch c : Ch) :
    ((chans s all ch).foldl imdctEffect s).chan c =
      if c ∈ chans s all ch then imdctChannel (s.chan c) else s.chan c := by
  obtain h | h | h := chans_cases s all ch
  all_goals
    rw [h]
    cases c <;> simp [imdctEffect]

/-- IMDCT on a legal operand and blocks the table row can split. -/
theorem exec_imdct {s : State} {all : Bool} {ch : Ch} (hlegal : channelsLegal s all ch = true)
    (hblocks : BlocksOk s (chans s all ch)) :
    ∃ t, exec (.imdct all ch) s = .next t ∧ XrPrevOnly s t ∧
      (∀ c ∈ chans s all ch, t.chan c = imdctChannel (s.chan c)) ∧ (∀ c, c ∉ chans s all ch → t.chan c = s.chan c) := by
  have hnone : (chans s all ch).findSome? (splitCheck s) = none :=
    List.findSome?_eq_none_iff.mpr (splitCheck_of_blocksOk hblocks)
  have hexec : exec (.imdct all ch) s = .next ((chans s all ch).foldl imdctEffect s).endDone := by
    simp only [exec_eq_finish, commandBody, perChannel, hlegal, hnone, if_true, finish_ok]
  obtain ⟨u, hfold⟩ := foldl_imdctEffect_eq_withXrPrev s (chans s all ch)
  refine ⟨_, hexec, ?_, fun c hc => ?_, fun c hc => ?_⟩
  · rw [hfold]
    exact xrPrevOnly_withXrPrev_endDone s u
  · rw [State.endDone_chan, foldl_imdctEffect_chan, if_pos hc]
  · rw [State.endDone_chan, foldl_imdctEffect_chan, if_neg hc]

/-- Settles O50: the output `y` of a subband is `imdctOutput`, by the class of the subband. -/
theorem imdctResult : Obligations.ImdctResult := by
  intro s all ch hlegal hblocks
  obtain ⟨t, hexec, hframe, hin, hout⟩ := exec_imdct hlegal hblocks
  refine ⟨t, hexec, hframe, fun c hc sb n hsb hn => ⟨imdctOutput (s.chan c) sb, ?_⟩, hout⟩
  rw [hin c hc, ← subbandShort_iff]
  refine ⟨fun hshort i => if_pos hshort, fun hlong i => if_neg hlong, ?_, ?_⟩
  · exact imdctChannel_xrLine _ hsb hn
  · exact imdctChannel_prevAt _ hsb hn

/-- Settles O51: a subband of silence has output 0, and `FP` keeps the stored values `PREV` adds. -/
theorem imdctOfZeroInput : Obligations.ImdctOfZeroInput := by
  intro s ch hlegal hblocks hstored hxr
  obtain ⟨t, hexec, -, hin, -⟩ := exec_imdct hlegal hblocks
  have hzero := imdctOutput_zero (s.chan ch) fun i => look_eq_zero hxr i
  refine ⟨t, hexec, fun sb n hsb hn => ?_⟩
  rw [hin ch (List.mem_singleton_self ch), imdctChannel_xrLine _ hsb hn, imdctChannel_prevAt _ hsb hn, hzero, hzero]
  exact ⟨fp_of_exact (Formula.exact?_zero_add _) (hstored.prevAt sb n), rfl⟩

/-- Settles O52: `PREV[sb][6..18]` is `y[24..36]`, which no window of a short subband reaches. -/
theorem shortBlocksLeaveZeroTail : Obligations.ShortBlocksLeaveZeroTail := by
  intro s t ch hlegal hshort hpure hexec sb n hsb hn hn'
  have hblocks : BlocksOk s (chans s false ch) := by
    rintro c (_ | ⟨_, ⟨⟩⟩) hm
    exact absurd (hpure.symm.trans hm) Bool.false_ne_true
  obtain ⟨u, hexec', -, hin, -⟩ := exec_imdct hlegal hblocks
  obtain rfl : u = t := by simpa [hexec] using hexec'.symm
  rw [hin ch (List.mem_singleton_self ch), imdctChannel_prevAt _ hsb hn']
  exact (if_pos ((subbandShort_iff _ sb).mpr (.inl ⟨hshort, hpure⟩))).trans (shortOutput_tail _ (by omega))

end Sys2Proof.Machine

/-! ## SYNTH (43_synthesis.md R190 to R197) -/

namespace Sys2Proof.Machine

open Claims

/-! ### The int16 code (43_synthesis.md R196) -/

/-- What the model sees of a product of two rationals is the product. -/
theorem Formula.exact?_rat_mul_rat (x y : Rat) : (Formula.mul (.rat x) (.rat y)).exact? = some (x * y) := by
  by_cases hx : x = 0 <;> simp [Formula.exact?, hx]

theorem pcmCode_eq (o : Rat) : pcmCode o = BitVec.ofInt 16 (sat16 (truncate (o * Config.pcmScale))) := by
  rw [pcmCode, Formula.exact?_rat_mul_rat, Option.getD_some]

/-- A saturated integer fits 16 bits. -/
theorem toInt_ofInt_sat16 (x : Int) : (BitVec.ofInt 16 (sat16 x)).toInt = sat16 x := by
  rw [BitVec.toInt_ofInt]
  exact Int.bmod_eq_of_le (by unfold sat16; omega) (by unfold sat16; omega)

theorem truncate_of_nonneg {q : Rat} (h : 0 ≤ q) : truncate q = ⌊q⌋ := by
  rw [truncate, Int.tdiv_eq_ediv_of_nonneg (Rat.num_nonneg.mpr h), Rat.floor_def']

/-- Truncation is odd. -/
theorem truncate_neg (q : Rat) : truncate (-q) = -truncate q := by
  rw [truncate, Rat.neg_num, Rat.neg_den, Int.neg_tdiv, truncate]

theorem truncate_of_nonpos {q : Rat} (h : q ≤ 0) : truncate q = ⌈q⌉ := by
  rw [← neg_neg q, truncate_neg, truncate_of_nonneg (neg_nonneg.mpr h), Int.ceil_neg]

/-- Settles O57: saturation leaves an integer of 16 bits, and truncation is floor or ceiling by the sign. -/
theorem pcmConversion : Obligations.PcmConversion := by
  refine ⟨fun o => ?_, fun q => truncate_of_nonneg, fun q => truncate_of_nonpos⟩
  rw [pcmCode_eq, toInt_ofInt_sat16, sat16]

/-! ### The formulas (43_synthesis.md R192 to R195) -/

theorem mul_rat_denotes {f : Formula} {y : ℝ} (h : f.Denotes y) (q : Rat) :
    (Formula.mul f (.rat q)).Denotes (y * (q : ℝ)) :=
  ⟨_, _, h, rfl, rfl⟩

theorem rat_denotes (q : Rat) : (Formula.rat q).Denotes (q : ℝ) := rfl

theorem matrixFormula_denotes (c : Channel) (t i : Nat) :
    (matrixFormula c t i).Denotes
      (∑ k ∈ Finset.range 32,
        Real.cos ((2 * k + 1) * (i + 16) * Real.pi / 64) * ((c.xrLine (18 * k + t) : Rat) : ℝ)) :=
  sum_range_denotes (fun _ => mul_rat_denotes (cosPi_mkRat_denotes (by push_cast; ring)) _) 32

section gather

variable (v : Vector Rat 1024) {r j : Nat} (hj : j < 32)

include hj

/-- The first half of a group of `U` comes from the first block of the group of `V`. -/
theorem gathered_first : gathered v (64 * r + j) = look v (128 * r + j) 0 := by
  have hgroup : (64 * r + j) / 64 = r := by omega
  have hplace : (64 * r + j) % 64 = j := by omega
  rw [gathered, hgroup, hplace, if_pos hj]

/-- The second half comes from the last block. -/
theorem gathered_last : gathered v (64 * r + 32 + j) = look v (128 * r + 96 + j) 0 := by
  have hgroup : (64 * r + 32 + j) / 64 = r := by omega
  have hplace : (64 * r + 32 + j) % 64 = 32 + j := by omega
  rw [gathered, hgroup, hplace, if_neg (by omega), Nat.add_sub_cancel_left]

end gather

/-- Settles O56: formula by formula. -/
theorem synthesisFormulas : Obligations.SynthesisFormulas :=
  ⟨matrixFormula_denotes, fun v _ _ _ hj => ⟨gathered_first v hj, gathered_last v hj⟩,
    fun _ _ _ => ⟨_, rfl, rat_mul_denotes _ (rat_denotes _)⟩,
    fun _ _ _ => ⟨_, rfl, sum_range_denotes (fun _ => rat_denotes _) 16⟩⟩

/-! ### The rows of a granule (43_synthesis.md R190) -/

/-- `V` of a channel after the first `r` rows. -/
def rowV (c : Channel) : Nat → Vector Rat 1024
  | 0 => c.v
  | r + 1 => synthShift c (rowV c r) r

/-- Sample `n` of a channel: output `n mod 32` of row `n div 32`, which reads `V` as that row leaves it. -/
def synthSample (c : Channel) (n : Nat) : Half := pcmCode (synthOutput (rowV c (n / 32 + 1)) (n % 32))

/-- The rows from `r` on, run where the rows before them have led. -/
theorem synthRows_range' (c : Channel) (r n : Nat) :
    synthRows c (List.range' r n) (rowV c r) =
      (rowV c (r + n), (List.range' r n).map fun t => synthBlock (rowV c (t + 1))) := by
  induction n generalizing r with
  | zero => rfl
  | succ n ih =>
    have hrest := ih (r + 1)
    rw [rowV, Nat.add_right_comm, Nat.add_assoc] at hrest
    rw [List.range'_succ, synthRows, hrest]
    rfl

theorem synthRows_granule (c : Channel) :
    synthRows c (List.range 18) c.v = (rowV c 18, (List.range 18).map fun t => synthBlock (rowV c (t + 1))) := by
  have h := synthRows_range' c 0 18
  rwa [← List.range_eq_range', Nat.zero_add] at h

theorem sampleAt_granule (c : Channel) {n : Nat} (hn : n < 576) :
    sampleAt ((List.range 18).map fun t => synthBlock (rowV c (t + 1))) n = synthSample c n := by
  have hrow : n / 32 < 18 := by omega
  have hplace : n % 32 < 32 := by omega
  rw [sampleAt, List.getD_eq_getElem _ _ (by simpa using hrow), List.getElem_map, List.getElem_range, synthBlock,
    look_ofFn _ _ hplace, synthSample]

/-- A row writes the matrix outputs (43_synthesis.md R192). -/
theorem look_rowV_succ_matrix (c : Channel) (r : Nat) {i : Nat} (hi : i < 64) :
    look (rowV c (r + 1)) i 0 = fp (matrixFormula c r i) := by
  rw [rowV, synthShift, look_ofFn _ _ (by omega), if_pos hi]

/-- A row shifts `V` by 64 (43_synthesis.md R191). -/
theorem look_rowV_succ_shift (c : Channel) (r : Nat) {i : Nat} (lo : 64 ≤ i) (hi : i < 1024) :
    look (rowV c (r + 1)) i 0 = look (rowV c r) (i - 64) 0 := by
  rw [rowV, synthShift, look_ofFn _ _ hi, if_neg (Nat.not_lt.mpr lo)]

/-! ### The slots of a pair (43_synthesis.md R197) -/

theorem slot_pcmWrite_same (mono : Bool) (ch : Ch) (old : Half × Half) (x : Half) :
    slot ch (pcmWrite mono ch old x) = x := by
  cases mono <;> cases ch <;> rfl

/-- Channel 1 never writes channel 0's slot. -/
theorem slot_c0_pcmWrite_c1 (mono : Bool) (old : Half × Half) (x : Half) :
    slot .c0 (pcmWrite mono .c1 old x) = slot .c0 old := by
  cases mono <;> rfl

/-- In a stream of two channels channel 0 does not write channel 1's slot. -/
theorem slot_c1_pcmWrite_c0 (old : Half × Half) (x : Half) :
    slot .c1 (pcmWrite false .c0 old x) = slot .c1 old := rfl

/-- A mono stream has both slots equal. -/
theorem pcmWrite_mono (old : Half × Half) (x : Half) : pcmWrite true .c0 old x = (x, x) := rfl

/-! ### SYNTH on one channel -/

/-- Replace `V[ch]` and `PCM`. -/
def State.setVPcm (s : State) (ch : Ch) (v : Vector Rat 1024) (pcm : Vector (Half × Half) 576) : State :=
  { s.setChan ch { s.chan ch with v := v } with pcm := pcm }

section

variable (s : State) (ch : Ch) (v : Vector Rat 1024) (pcm : Vector (Half × Half) 576)

theorem setVPcm_pcm : (s.setVPcm ch v pcm).pcm = pcm := rfl

theorem chan_setVPcm_same : (s.setVPcm ch v pcm).chan ch = { s.chan ch with v := v } := by cases ch <;> rfl

theorem chan_setVPcm_of_ne {c : Ch} (h : c ≠ ch) : (s.setVPcm ch v pcm).chan c = s.chan c := by
  cases c <;> exact s.chan_setChan_of_ne h _

end

/-- `PCM` with the samples of a channel written. -/
def synthPcm (s : State) (ch : Ch) : Vector (Half × Half) 576 :=
  Vector.ofFn fun n => pcmWrite (decide (s.nch = 1)) ch s.pcm[n] (synthSample (s.chan ch) n.val)

theorem synthEffect_eq (s : State) (ch : Ch) :
    synthEffect s ch = s.setVPcm ch (rowV (s.chan ch) 18) (synthPcm s ch) := by
  have hsample (n : Fin 576) := sampleAt_granule (s.chan ch) n.isLt
  simp only [synthEffect, synthRows_granule, hsample]
  rfl

/-- SYNTH on a channel replaces the channel's `V` and keeps the other channel. -/
theorem synthEffect_chan (s : State) (ch c : Ch) :
    (synthEffect s ch).chan c = if c = ch then { s.chan c with v := rowV (s.chan c) 18 } else s.chan c := by
  rw [synthEffect_eq]
  split
  case isTrue h => rw [h, chan_setVPcm_same]
  case isFalse h => rw [chan_setVPcm_of_ne _ _ _ _ h]

section

variable (s : State) (n : Fin 576)

theorem synthEffect_pcm (ch : Ch) :
    (synthEffect s ch).pcm[n] = pcmWrite (decide (s.nch = 1)) ch s.pcm[n] (synthSample (s.chan ch) n.val) := by
  rw [synthEffect_eq, setVPcm_pcm]
  exact Vector.getElem_ofFn n.isLt

theorem slot_synthEffect_same (ch : Ch) : slot ch (synthEffect s ch).pcm[n] = synthSample (s.chan ch) n.val := by
  rw [synthEffect_pcm, slot_pcmWrite_same]

theorem slot_c0_synthEffect_c1 : slot .c0 (synthEffect s .c1).pcm[n] = slot .c0 s.pcm[n] := by
  rw [synthEffect_pcm, slot_c0_pcmWrite_c1]

variable {s}

theorem slot_c1_synthEffect_c0 (hmode : s.chMode ≠ 3) : slot .c1 (synthEffect s .c0).pcm[n] = slot .c1 s.pcm[n] := by
  have hnch : decide (s.nch = 1) = false := by simp [State.nch, hmode]
  rw [synthEffect_pcm, hnch, slot_c1_pcmWrite_c0]

theorem synthEffect_pcm_mono (hmode : s.chMode = 3) :
    (synthEffect s .c0).pcm[n] = (synthSample s.chan0 n.val, synthSample s.chan0 n.val) := by
  have hnch : decide (s.nch = 1) = true := by simp [State.nch, hmode]
  rw [synthEffect_pcm, hnch, pcmWrite_mono, State.chan_c0]

end

/-! ### The frame -/

theorem pcmBytes_of_regionOf {a : Nat} (h : regionOf a = .pcm) : pcmBytes a := by
  unfold regionOf at h
  split_ifs at h with _ _ _ hpcm
  exact hpcm

/-- The state with `V` of both channels and `PCM` as in `u`. -/
def State.withVPcm (s u : State) : State :=
  { s with
    pcm := u.pcm
    chan0 := { s.chan0 with v := u.chan0.v }
    chan1 := { s.chan1 with v := u.chan1.v } }

theorem withVPcm_self (s : State) : s.withVPcm s = s := rfl

theorem setVPcm_withVPcm (s u : State) (ch : Ch) (v : Vector Rat 1024) (pcm : Vector (Half × Half) 576) :
    (s.withVPcm u).setVPcm ch v pcm = s.withVPcm ((s.withVPcm u).setVPcm ch v pcm) := by
  cases ch <;> rfl

theorem foldl_synthEffect_eq_withVPcm (s : State) (l : List Ch) : ∃ u, l.foldl synthEffect s = s.withVPcm u := by
  refine foldl_keeps (P := fun v => ∃ u, v = s.withVPcm u) (fun v ch hv => ?_) l ⟨s, (withVPcm_self s).symm⟩
  obtain ⟨u, rfl⟩ := hv
  exact ⟨_, (synthEffect_eq _ ch).trans (setVPcm_withVPcm s u ch _ _)⟩

theorem hostByte_withVPcm (s u : State) {a : Nat} (h : ¬ pcmBytes a) : (s.withVPcm u).hostByte a = s.hostByte a :=
  hostByte_congr (fun _ => rfl) (fun _ => by cases sfChannel a <;> rfl) (fun _ => rfl)
    (fun hr => absurd (pcmBytes_of_regionOf hr) h) (fun _ => by cases isiChannel a <;> rfl)

theorem vPcmOnly_withVPcm_endDone (s u : State) : VPcmOnly s (s.withVPcm u).endDone := by
  refine ⟨rfl, fun a ha => ?_⟩
  obtain ⟨hstatus, hpcm⟩ := not_or.mp ha
  exact (endDone_sameBytes _ a hstatus).trans (hostByte_withVPcm s u hpcm)

/-! ### SYNTH on a channel set -/

/-- SYNTH on a legal operand. -/
theorem exec_synth {s : State} {all : Bool} {ch : Ch} (hlegal : channelsLegal s all ch = true) :
    exec (.synth all ch) s = .next ((chans s all ch).foldl synthEffect s).endDone := by
  rw [exec_eq_finish, commandBody, perChannel_noCheck _ _ _ _ hlegal, finish_ok]

section set

variable (s : State) (all : Bool) (ch c : Ch)

/-- Each channel of the set runs its rows, the others stay. The proof keeps channels under `State.chan`, where
`synthEffect_chan` applies. -/
theorem foldl_synthEffect_chan :
    ((chans s all ch).foldl synthEffect s).chan c =
      if c ∈ chans s all ch then { s.chan c with v := rowV (s.chan c) 18 } else s.chan c := by
  obtain h | h | h := chans_cases s all ch
  all_goals
    rw [h]
    cases c <;> simp [synthEffect_chan, -State.chan_c0, -State.chan_c1]

variable {c}

/-- Each channel of the set has its samples in its slot; channel 1, which comes last, leaves channel 0's. -/
theorem slot_foldl_synthEffect_of_mem (hc : c ∈ chans s all ch) (n : Fin 576) :
    slot c ((chans s all ch).foldl synthEffect s).pcm[n] = synthSample (s.chan c) n.val := by
  obtain h | h | h := chans_cases s all ch
  · obtain rfl : c = .c0 := List.mem_singleton.mp (h ▸ hc)
    rw [h]
    exact slot_synthEffect_same s n .c0
  · obtain rfl : c = .c1 := List.mem_singleton.mp (h ▸ hc)
    rw [h]
    exact slot_synthEffect_same s n .c1
  · rw [h]
    cases c with
    | c0 => exact (slot_c0_synthEffect_c1 _ n).trans (slot_synthEffect_same s n .c0)
    | c1 =>
      have hchan : (synthEffect s .c0).chan .c1 = s.chan .c1 := synthEffect_chan s .c0 .c1
      exact (slot_synthEffect_same (synthEffect s .c0) n .c1).trans (congrArg (synthSample · n.val) hchan)

/-- In a stream of two channels the others keep their slots. -/
theorem slot_foldl_synthEffect_of_not_mem (hmode : s.chMode ≠ 3) (hc : c ∉ chans s all ch) (n : Fin 576) :
    slot c ((chans s all ch).foldl synthEffect s).pcm[n] = slot c s.pcm[n] := by
  obtain h | h | h := chans_cases s all ch
  · rw [h] at hc ⊢
    cases c with
    | c0 => exact absurd (List.mem_singleton_self _) hc
    | c1 => exact slot_c1_synthEffect_c0 n hmode
  · rw [h] at hc ⊢
    cases c with
    | c0 => exact slot_c0_synthEffect_c1 s n
    | c1 => exact absurd (List.mem_singleton_self _) hc
  · rw [h] at hc
    cases c <;> simp at hc

end set

/-- A mono stream's one channel writes both slots. -/
theorem foldl_synthEffect_pcm_of_mono {s : State} {all : Bool} {ch : Ch} (hlegal : channelsLegal s all ch = true)
    (hmode : s.chMode = 3) (n : Fin 576) :
    ((chans s all ch).foldl synthEffect s).pcm[n] = (synthSample s.chan0 n.val, synthSample s.chan0 n.val) := by
  obtain rfl : ch = .c0 := ((channelsLegal_iff s all ch).mp hlegal).2 hmode
  have hset : chans s all .c0 = [.c0] := by simp [chans, State.channels, hmode]
  rw [hset]
  exact synthEffect_pcm_mono n hmode

/-- Settles O55: `V` row by row is `rowV`, and each row's outputs are the samples of its 32 places. -/
theorem synthResult : Obligations.SynthResult := by
  intro s all ch hlegal
  obtain ⟨u, hfold⟩ := foldl_synthEffect_eq_withVPcm s (chans s all ch)
  refine ⟨_, exec_synth hlegal, ?_, fun c hc => ?_, fun c hc => ?_, fun hmode n => ?_, fun hmode c hc n => ?_⟩
  · rw [hfold]
    exact vPcmOnly_withVPcm_endDone s u
  · refine ⟨rowV (s.chan c), rfl, ?_, fun r hr => ⟨fun i => look_rowV_succ_matrix _ r,
      fun i => look_rowV_succ_shift _ r, fun j hj => ?_⟩⟩
    · rw [State.endDone_chan, foldl_synthEffect_chan, if_pos hc]
    · have hn : 32 * r + j < 576 := by omega
      have hrow : (32 * r + j) / 32 = r := by omega
      have hplace : (32 * r + j) % 32 = j := by omega
      rw [look_lt _ _ hn]
      refine (slot_foldl_synthEffect_of_mem s all ch hc ⟨_, hn⟩).trans ?_
      simp only [synthSample, hrow, hplace]
  · rw [State.endDone_chan, foldl_synthEffect_chan, if_neg hc]
  · rw [State.endDone_pcm, foldl_synthEffect_pcm_of_mono hlegal hmode]
  · exact slot_foldl_synthEffect_of_not_mem s all ch hmode hc n

/-! ### Silence (43_synthesis.md R190) -/

section silence

variable {c : Channel} (hx : ∀ i, c.xrLine i = 0)

include hx

theorem fp_matrixFormula_zero (t i : Nat) : fp (matrixFormula c t i) = 0 := by
  refine fp_of_exact_zero (Formula.exact?_sum_zero fun f hf => ?_)
  obtain ⟨k, -, rfl⟩ := List.mem_map.mp hf
  rw [hx]
  exact Formula.exact?_mul_zero_right _ rfl

theorem look_rowV_zero (hv : ∀ i, look c.v i 0 = 0) (r i : Nat) : look (rowV c r) i 0 = 0 := by
  induction r generalizing i with
  | zero => exact hv i
  | succ r ih =>
    obtain hlow | ⟨lo, hi⟩ | hpast : i < 64 ∨ (64 ≤ i ∧ i < 1024) ∨ 1024 ≤ i := by omega
    · rw [look_rowV_succ_matrix c r hlow, fp_matrixFormula_zero hx]
    · rw [look_rowV_succ_shift c r lo hi, ih]
    · exact look_ge _ _ hpast

end silence

section zeroV

variable {v : Vector Rat 1024} (hv : ∀ i, look v i 0 = 0)

include hv

theorem gathered_zero (i : Nat) : gathered v i = 0 := by
  unfold gathered
  split_ifs
  · exact hv _
  · exact hv _

theorem windowed_zero (i : Nat) : windowed v i = 0 := by
  rw [windowed, gathered_zero hv]
  exact fp_of_exact_zero (Formula.exact?_mul_zero_left _ rfl)

theorem synthOutput_zero (j : Nat) : synthOutput v j = 0 := by
  refine fp_of_exact_zero (Formula.exact?_sum_zero fun f hf => ?_)
  obtain ⟨r, -, rfl⟩ := List.mem_map.mp hf
  rw [windowed_zero hv]
  rfl

end zeroV

/-- The code of 0 is 0 whatever `PCM_SCALE` is. -/
theorem pcmCode_zero : pcmCode 0 = 0 := by
  rw [pcmCode_eq, zero_mul]
  rfl

/-- Settles O58: every row writes zeros over zeros, and the outputs of a zero `V` are 0. -/
theorem synthOfSilence : Obligations.SynthOfSilence := by
  intro s ch hlegal hxr hv
  have hmem : ch ∈ chans s false ch := List.mem_singleton_self ch
  have hrows := look_rowV_zero (c := s.chan ch) (look_eq_zero hxr) (look_eq_zero hv)
  refine ⟨_, exec_synth hlegal, fun n => ?_, fun i => ?_⟩
  · rw [State.endDone_pcm, slot_foldl_synthEffect_of_mem s false ch hmem, synthSample, synthOutput_zero (hrows _),
      pcmCode_zero]
  · rw [State.endDone_chan, foldl_synthEffect_chan, if_pos hmem]
    exact (look_lt _ 0 i.isLt).symm.trans (hrows 18 i.val)

end Sys2Proof.Machine

/-! ## The control commands NOP, CLEARHIST, SILENCE (44_control.md R210 to R212) -/

namespace Sys2Proof.Machine

open Claims

/-! ### Words of a channel-free command with another bit set (30_encoding.md R82) -/

/-- The field `OP` of a command's word (30_encoding.md R80). -/
theorem extractLsb'_encode_op (i : Instr) : (encode i).extractLsb' 0 8 = opcode i := by
  have hop (op : BitVec 8) (all : Bool) (ch : Ch) : (encodeC op all ch).extractLsb' 0 8 = op :=
    BitVec.extractLsb'_append_eq_right
  cases i <;> exact hop _ _ _

/-- No other command has the opcode of a channel-free command (30_encoding.md R83). -/
theorem eq_of_opcode_eq {i j : Instr} (hi : channelOperand i = none) (h : opcode j = opcode i) : j = i := by
  cases i <;> cases hi
  all_goals cases j <;> simp [opcode] at h ⊢

theorem illegal_of_channelFree_word {i : Instr} {w : Word} (s : State) (hi : channelOperand i = none)
    (hop : w.extractLsb' 0 8 = opcode i) (hrest : w.extractLsb' 8 24 ≠ 0) : Illegal s w := by
  unfold Illegal
  cases hdecode : decode w with
  | error r => trivial
  | ok j =>
    obtain ⟨-, rfl⟩ := wellFormed_and_eq_encode_of_decode hdecode
    obtain rfl : j = i := eq_of_opcode_eq hi ((extractLsb'_encode_op j).symm.trans hop)
    cases j <;> cases hi
    all_goals exact absurd rfl hrest

/-! ### NOP -/

theorem startCommand_engineNext {s : State} (hinbox : s.inbox = []) (w : Word) : EngineNext (s.startCommand w) :=
  ⟨rfl, fun e rest h => by simp [State.startCommand, hinbox] at h⟩

/-- Settles O28: NOP is the end of a command with nothing before it. -/
theorem nopOnlySetsDone : Obligations.NopOnlySetsDone := by
  refine ⟨fun s => ⟨rfl, endDone_sameBytes s⟩, ⟨(State.reset.startCommand 0).endDone, ?_, ?_⟩,
    fun s hnext hop hrest => ?_⟩
  · exact stepRunsDecodedCommand _ .nop (startCommand_engineNext rfl 0) rfl
  · exact busRead_of_regs _ (by decide) (by decide)
  · exact illegalWordRaisesIllegalCommand s hnext (illegal_of_channelFree_word (i := .nop) s rfl hop hrest)

/-! ### CLEARHIST -/

/-- A channel with a zero history (44_control.md R211). -/
def Channel.clearHistory (c : Channel) : Channel :=
  { c with prev := Vector.replicate 32 (Vector.replicate 18 0), v := Vector.replicate 1024 0 }

theorem clearhistEffect_chan (s : State) (ch c : Ch) :
    (clearhistEffect s ch).chan c = if c = ch then (s.chan c).clearHistory else s.chan c := by
  cases ch <;> cases c <;> rfl

theorem foldl_clearhistEffect_chan (s : State) (all : Bool) (ch c : Ch) :
    ((chans s all ch).foldl clearhistEffect s).chan c =
      if c ∈ chans s all ch then (s.chan c).clearHistory else s.chan c := by
  obtain h | h | h := chans_cases s all ch
  all_goals
    rw [h]
    cases c <;> rfl

/-- The host sees neither `PREV` nor `V`. -/
theorem hostByte_clearhistEffect (s : State) (ch : Ch) (a : Nat) : (clearhistEffect s ch).hostByte a = s.hostByte a := by
  refine hostByte_congr (fun _ => ?_) (fun _ => ?_) (fun _ => ?_) (fun _ => ?_) (fun _ => ?_)
  · cases ch <;> rfl
  · rw [clearhistEffect_chan]
    split <;> rfl
  · cases ch <;> rfl
  · cases ch <;> rfl
  · rw [clearhistEffect_chan]
    split <;> rfl

theorem exec_clearhist {s : State} {all : Bool} {ch : Ch} (hlegal : channelsLegal s all ch = true) :
    exec (.clearhist all ch) s = .next ((chans s all ch).foldl clearhistEffect s).endDone := by
  rw [exec_eq_finish, commandBody, perChannel_noCheck _ _ _ _ hlegal, finish_ok]

/-- Settles O29: the effect on a channel zeroes its history, which the host does not see. -/
theorem clearhistResult : Obligations.ClearhistResult := by
  refine fun s all ch => ⟨fun hillegal => ?_, fun hlegal => ⟨_, exec_clearhist hlegal, ?_, fun c hc => ?_,
    fun c hc => ?_, ?_⟩⟩
  · exact exec_of_illegal_operand (i := .clearhist all ch) rfl (by simp [hillegal])
  · obtain h | h | h := chans_cases s all ch
    all_goals
      rw [h]
      rfl
  · rw [State.endDone_chan, foldl_clearhistEffect_chan, if_pos hc]
    exact ⟨fun sb n => by simp [Channel.clearHistory], fun i => by simp [Channel.clearHistory]⟩
  · rw [State.endDone_chan, foldl_clearhistEffect_chan, if_neg hc]
  · have hbytes (a : Nat) : ((chans s all ch).foldl clearhistEffect s).hostByte a = s.hostByte a :=
      foldl_keeps (P := fun u => u.hostByte a = s.hostByte a)
        (fun u c hu => (hostByte_clearhistEffect u c a).trans hu) _ rfl
    exact fun a ha => (endDone_sameBytes _ a ha).trans (hbytes a)

/-! ### SILENCE -/

/-- The state with a zero PCM buffer (44_control.md R212). -/
def State.silenced (s : State) : State := { s with pcm := Vector.replicate 576 (0, 0) }

theorem hostByte_silenced (s : State) {a : Nat} (h : pcmBytes a) : s.silenced.hostByte a = 0 := by
  have hpair : look s.silenced.pcm ((a - 0x2000) / 4) (0, 0) = (0, 0) :=
    look_replicate _ _ (by simp only [pcmBytes] at h; omega)
  rw [hostByte_of_pcm (regionOf_eq_pcm h.1 h.2), hpair, ite_self, halfByte]
  exact BitVec.extractLsb'_zero

/-- Settles O30: the end of a command after the write of `PCM`. -/
theorem silenceResult : Obligations.SilenceResult := by
  refine ⟨fun s => ⟨s.silenced.endDone, rfl, rfl, fun n => ?_, fun a ha => ?_, ?_⟩, fun s hnext hop hrest => ?_⟩
  · exact Vector.getElem_replicate n.isLt
  · have hstatus : ¬ statusBytes a := by
      simp only [pcmBytes, statusBytes] at *
      omega
    rw [endDone_sameBytes _ a hstatus, hostByte_silenced s ha]
  · obtain ⟨-, hbytes⟩ := vPcmOnly_withVPcm_endDone s s.silenced
    exact hbytes
  · exact illegalWordRaisesIllegalCommand s hnext (illegal_of_channelFree_word (i := .silence) s rfl hop hrest)

end Sys2Proof.Machine

/-! ## BACKEND (44_control.md R213)

BACKEND takes one channel through several steps before the next channel; a command on all channels takes every channel
through one step before the next step. The two orders agree because a step on a channel reads, besides the configuration,
that channel alone, and writes that channel alone or its `PCM` samples. -/

namespace Sys2Proof.Machine

open Claims

/-! ### Effects that read and write one channel -/

/-- The effect replaces the channel by one that depends on the configuration and the channel. -/
def OwnChannel (effect : State → Ch → State) : Prop :=
  ∃ f : BitVec 8 → Channel → Channel, ∀ s ch, effect s ch = s.setChan ch (f s.cfg (s.chan ch))

/-- The effect replaces the channel likewise, and `PCM` by what depends on these and on `PCM`. -/
def OwnChannelAndPcm (effect : State → Ch → State) : Prop :=
  ∃ (f : BitVec 8 → Channel → Channel)
    (g : BitVec 8 → Channel → Ch → Vector (Half × Half) 576 → Vector (Half × Half) 576),
    ∀ s ch, effect s ch = { s.setChan ch (f s.cfg (s.chan ch)) with pcm := g s.cfg (s.chan ch) ch s.pcm }

/-- A state of which only the configuration matters. -/
def configured (cfg : BitVec 8) : State := { State.reset with cfg := cfg }

theorem requantEffect_own : OwnChannel requantEffect :=
  ⟨fun cfg c => { c with xr := requantXr (configured cfg) c }, fun _ _ => rfl⟩

theorem reorderEffect_own : OwnChannel reorderEffect :=
  ⟨fun cfg c => { c with xr := reorderXr (configured cfg) c }, fun _ _ => rfl⟩

theorem antialiasEffect_own : OwnChannel antialiasEffect := ⟨fun _ c => { c with xr := antialiasXr c }, fun _ _ => rfl⟩

theorem imdctEffect_own : OwnChannel imdctEffect := ⟨fun _ => imdctChannel, fun _ _ => rfl⟩

theorem freqinvEffect_own : OwnChannel freqinvEffect := ⟨fun _ c => { c with xr := freqinvXr c }, fun _ _ => rfl⟩

theorem synthEffect_own : OwnChannelAndPcm synthEffect :=
  ⟨fun _ c => { c with v := rowV c 18 },
    fun cfg c ch pcm => Vector.ofFn fun n =>
      pcmWrite (decide ((configured cfg).nch = 1)) ch pcm[n] (synthSample c n.val),
    synthEffect_eq⟩

section

variable {e e' : State → Ch → State}

theorem OwnChannel.withPcm (h : OwnChannel e) : OwnChannelAndPcm e := by
  obtain ⟨f, hf⟩ := h
  exact ⟨f, fun _ _ _ pcm => pcm, fun s ch => by rw [hf]; cases ch <;> rfl⟩

/-- One effect after the other on the same channel. -/
def thenEffect (e e' : State → Ch → State) (s : State) (ch : Ch) : State := e' (e s ch) ch

theorem OwnChannel.thenEffect (h : OwnChannel e) (h' : OwnChannel e') : OwnChannel (thenEffect e e') := by
  obtain ⟨f, hf⟩ := h
  obtain ⟨f', hf'⟩ := h'
  exact ⟨fun cfg c => f' cfg (f cfg c), fun s ch => by simp [Machine.thenEffect, hf, hf']⟩

/-- Effects on different channels commute, if one of them leaves `PCM` alone. -/
theorem OwnChannel.comm (h : OwnChannel e) (h' : OwnChannelAndPcm e') (s : State) {c c' : Ch} (hne : c ≠ c') :
    e (e' s c') c = e' (e s c) c' := by
  obtain ⟨f, hf⟩ := h
  obtain ⟨f', g', hf'⟩ := h'
  simp only [hf, hf']
  cases c <;> cases c'
  case c0.c1 => rfl
  case c1.c0 => rfl
  all_goals exact absurd rfl hne

/-- The end of a command before an effect is as good as after it. -/
theorem OwnChannelAndPcm.endDone (h : OwnChannelAndPcm e) (s : State) (ch : Ch) : e s.endDone ch = (e s ch).endDone := by
  obtain ⟨f, g, hf⟩ := h
  rw [hf, hf]
  cases ch <;> rfl

end

/-! ### An effect on every channel of the stream -/

/-- The effect on each channel of the stream in increasing order (30_encoding.md R80, R81). -/
def onChannels (effect : State → Ch → State) (s : State) : State := s.channels.foldl effect s

section

variable {e e' : State → Ch → State}

theorem onChannels_blank {p : Parts} (he : WritesOnly p e) (s : State) : (onChannels e s).blank p = s.blank p :=
  he.foldl _ s

theorem onChannels_endDone (h : OwnChannelAndPcm e) (s : State) : onChannels e s.endDone = (onChannels e s).endDone := by
  have hfold (l : List Ch) (u : State) : l.foldl e u.endDone = (l.foldl e u).endDone :=
    List.foldl_hom State.endDone fun u c => h.endDone u c
  exact hfold s.channels s

theorem onChannels_channels (h : OwnChannel e) (s : State) : (onChannels e s).channels = s.channels := by
  obtain ⟨f, hf⟩ := h
  have hcfg : (onChannels e s).cfg = s.cfg :=
    foldl_keeps (P := fun u => u.cfg = s.cfg) (fun u ch hu => by rw [hf, State.setChan_cfg, hu]) s.channels rfl
  rw [State.channels, State.chMode, hcfg]
  rfl

/-- Channel by channel through two effects, or effect by effect through the channels. -/
theorem onChannels_thenEffect (h : OwnChannel e) (h' : OwnChannelAndPcm e') (s : State) :
    onChannels (thenEffect e e') s = onChannels e' (onChannels e s) := by
  have hset : onChannels e' (onChannels e s) = s.channels.foldl e' (onChannels e s) := by
    rw [onChannels, onChannels_channels h]
  rw [hset, onChannels, onChannels, State.channels]
  split
  · rfl
  · simp only [List.foldl_cons, List.foldl_nil, thenEffect, h.comm h' _ (show Ch.c1 ≠ .c0 by decide)]

end

/-! ### Usable tables -/

/-- The band tables can be used for the channel's block: every check of BACKEND's steps on it passes. -/
def TablesUsable (s : State) (ch : Ch) : Prop := s.tablesOk = true ∧ splitUsable s ch = true

/-- A check that usable tables pass. -/
def Passes (check : State → Ch → Option CmdError) : Prop := ∀ s ch, TablesUsable s ch → check s ch = none

theorem requantCheck_passes_usable : Passes requantCheck := fun _ _ h => requantCheck_passes h.1 h.2

theorem reorderCheck_passes_usable : Passes reorderCheck := requantCheck_passes_usable

theorem splitCheck_passes_usable : Passes splitCheck := fun _ _ h => splitCheck_passes h.2

theorem noCheck_passes_usable : Passes noCheck := fun _ _ _ => rfl

/-! Usability is a matter of `CFG` and the descriptors, which no effect of BACKEND writes. -/

section

variable {p : Parts} {s t : State}

theorem tablesOk_of_blank_eq (h : t.blank p = s.blank p) : t.tablesOk = s.tablesOk := (congrArg State.tablesOk h :)

theorem channels_of_blank_eq (h : t.blank p = s.blank p) : t.channels = s.channels := (congrArg State.channels h :)

theorem splitUsable_of_blank_eq (h : t.blank p = s.blank p) (ch : Ch) : splitUsable t ch = splitUsable s ch := by
  have hsplit : t.splitOk = s.splitOk := (congrArg State.splitOk h :)
  have hmixed : (t.chan ch).mixed = (s.chan ch).mixed := (congrArg Channel.mixed (State.chan_blank_eq h ch) :)
  rw [splitUsable, splitUsable, tablesOk_of_blank_eq h, hsplit, hmixed]

theorem TablesUsable.of_blank_eq {ch : Ch} (hs : TablesUsable s ch) (h : t.blank p = s.blank p) : TablesUsable t ch :=
  ⟨(tablesOk_of_blank_eq h).trans hs.1, (splitUsable_of_blank_eq h ch).trans hs.2⟩

end

theorem TablesUsable.endDone {s : State} {ch : Ch} (hs : TablesUsable s ch) : TablesUsable s.endDone ch :=
  hs.of_blank_eq (p := { flags := true }) rfl

/-- The tables are usable for every channel of the stream. -/
def StreamUsable (s : State) : Prop := ∀ c ∈ s.channels, TablesUsable s c

namespace StreamUsable

variable {s : State} (hs : StreamUsable s)

include hs

theorem of_blank_eq {p : Parts} {t : State} (h : t.blank p = s.blank p) : StreamUsable t := by
  rw [StreamUsable, channels_of_blank_eq h]
  exact fun c hc => (hs c hc).of_blank_eq h

theorem endDone : StreamUsable s.endDone := fun c hc => (hs c hc).endDone

theorem onChannels {e : State → Ch → State} (he : WritesOnly arrays e) : StreamUsable (onChannels e s) :=
  hs.of_blank_eq (onChannels_blank he s)

end StreamUsable

/-! ### The commands on all channels -/

section

variable {i : Instr} {check : State → Ch → Option CmdError} {e : State → Ch → State} {s : State}

/-- A per-channel command whose checks pass. -/
theorem exec_of_usable {all : Bool} {ch : Ch} (hi : commandBody i s = perChannel check e all ch s) (hcheck : Passes check)
    (hlegal : channelsLegal s all ch = true) (hs : ∀ c ∈ chans s all ch, TablesUsable s c) :
    exec i s = .next ((chans s all ch).foldl e s).endDone := by
  have hnone : (chans s all ch).findSome? (check s) = none :=
    List.findSome?_eq_none_iff.mpr fun c hc => hcheck s c (hs c hc)
  rw [exec_eq_finish, hi, perChannel, if_pos hlegal, hnone, finish_ok]

theorem exec_single {ch : Ch} (hi : commandBody i s = perChannel check e false ch s) (hcheck : Passes check)
    (hlegal : channelsLegal s false ch = true) (hs : TablesUsable s ch) : exec i s = .next (e s ch).endDone :=
  exec_of_usable hi hcheck hlegal fun _ hc => List.mem_singleton.mp hc ▸ hs

theorem exec_onChannels (hi : ∀ u, commandBody i u = perChannel check e true .c0 u) (hcheck : Passes check)
    (hs : StreamUsable s) : exec i s = .next (onChannels e s).endDone :=
  exec_of_usable (hi s) hcheck (channelsLegal_all s) hs

/-! The same where another command has ended. -/

theorem exec_single_endDone {ch : Ch} (hi : ∀ u, commandBody i u = perChannel check e false ch u) (hcheck : Passes check)
    (he : OwnChannelAndPcm e) (hlegal : channelsLegal s.endDone false ch = true) (hs : TablesUsable s ch) :
    exec i s.endDone = .next (e s ch).endDone := by
  rw [exec_single (hi _) hcheck hlegal hs.endDone, he.endDone]
  rfl

theorem exec_onChannels_endDone (hi : ∀ u, commandBody i u = perChannel check e true .c0 u) (hcheck : Passes check)
    (he : OwnChannelAndPcm e) (hs : StreamUsable s) : exec i s.endDone = .next (onChannels e s).endDone := by
  rw [exec_onChannels hi hcheck hs.endDone, onChannels_endDone he]
  rfl

end

/-- The effect of STEREO (41_requant_stereo.md R145). -/
def stereoStep (s : State) : State := if s.chMode = 1 then stereoEffect s else s

theorem stereoStep_blank (s : State) : (stereoStep s).blank arrays = s.blank arrays := by
  unfold stereoStep
  split
  · exact stereoEffect_blank rfl s
  · rfl

theorem stereoStep_endDone (s : State) : stereoStep s.endDone = (stereoStep s).endDone := by
  have hmode : s.endDone.chMode = s.chMode := rfl
  have hpair : stereoPair s.endDone = stereoPair s := rfl
  unfold stereoStep
  rw [hmode, apply_ite State.endDone, stereoEffect_eq_withXr, stereoEffect_eq_withXr, hpair]
  rfl

theorem stereoBody_of_usable {s : State} (hs : StreamUsable s) : stereoBody s = .ok (stereoStep s) := by
  unfold stereoBody stereoStep
  by_cases hmode : s.chMode = 1
  · have hchannels : s.channels = [.c0, .c1] := by simp [State.channels, hmode]
    obtain ⟨htables, h0⟩ := hs .c0 (by simp [hchannels])
    obtain ⟨-, h1⟩ := hs .c1 (by simp [hchannels])
    simp [hmode, stereoOutOfRange, htables, h0, h1]
  · simp [hmode]

theorem exec_stereo_endDone {s : State} (hs : StreamUsable s) : exec .stereo s.endDone = .next (stereoStep s).endDone := by
  rw [exec_eq_finish, commandBody, stereoBody_of_usable hs.endDone, finish_ok, stereoStep_endDone]
  rfl

/-! ### The steps of BACKEND -/

/-- A pass over channels with usable tables, each of which runs its steps, has the steps' effect on each. -/
theorem foldl_of_usable {step : CmdResult → Ch → CmdResult} {e : State → Ch → State} {l : List Ch} {s : State}
    (he : WritesOnly arrays e) (hstep : ∀ u c, TablesUsable u c → step (.ok u) c = .ok (e u c))
    (hs : ∀ c ∈ l, TablesUsable s c) : l.foldl step (.ok s) = .ok (l.foldl e s) := by
  induction l generalizing s with
  | nil => rfl
  | cons c l ih =>
    obtain ⟨hc, hl⟩ := List.forall_mem_cons.mp hs
    rw [List.foldl_cons, List.foldl_cons, hstep s c hc]
    exact ih fun c' hc' => (hl c' hc').of_blank_eq (he s c)

theorem oneChannel_of_usable {check : State → Ch → Option CmdError} {e : State → Ch → State} {s : State} {c : Ch}
    (hcheck : Passes check) (hs : TablesUsable s c) : oneChannel check e c s = .ok (e s c) := by
  rw [oneChannel, hcheck s c hs]

/-- REQUANT then REORDER on one channel. -/
def frontEffect : State → Ch → State := thenEffect requantEffect reorderEffect

theorem frontEffect_eq (s : State) (c : Ch) : frontEffect s c = reorderEffect (requantEffect s c) c := rfl

/-- ANTIALIAS, IMDCT, FREQINV, SYNTH on one channel. -/
def backEffect : State → Ch → State :=
  thenEffect (thenEffect (thenEffect antialiasEffect imdctEffect) freqinvEffect) synthEffect

theorem WritesOnly.thenEffect {p : Parts} {e e' : State → Ch → State} (h : WritesOnly p e) (h' : WritesOnly p e') :
    WritesOnly p (thenEffect e e') := fun s ch => (h' (e s ch) ch).trans (h s ch)

theorem frontEffect_writesOnly : WritesOnly arrays frontEffect :=
  (requantEffect_writesOnly rfl).thenEffect (reorderEffect_writesOnly rfl)

theorem backEffect_writesOnly : WritesOnly arrays backEffect :=
  (((antialiasEffect_writesOnly rfl).thenEffect (imdctEffect_writesOnly rfl rfl)).thenEffect
    (freqinvEffect_writesOnly rfl)).thenEffect (synthEffect_writesOnly rfl rfl)

theorem frontStep_of_usable {s : State} {c : Ch} (hs : TablesUsable s c) :
    ((CmdResult.ok s).andThen (oneChannel requantCheck requantEffect c)).andThen
      (oneChannel reorderCheck reorderEffect c) = .ok (frontEffect s c) := by
  rw [CmdResult.andThen, oneChannel_of_usable requantCheck_passes_usable hs]
  exact oneChannel_of_usable reorderCheck_passes_usable (hs.of_blank_eq (requantEffect_writesOnly (p := arrays) rfl s c))

theorem backStep_of_usable {s : State} {c : Ch} (hs : TablesUsable s c) :
    ((((CmdResult.ok s).andThen (oneChannel splitCheck antialiasEffect c)).andThen
      (oneChannel splitCheck imdctEffect c)).andThen (oneChannel noCheck freqinvEffect c)).andThen
      (oneChannel noCheck synthEffect c) = .ok (backEffect s c) := by
  have hs' := hs.of_blank_eq (antialiasEffect_writesOnly (p := arrays) rfl s c)
  rw [CmdResult.andThen, oneChannel_of_usable splitCheck_passes_usable hs, CmdResult.andThen,
    oneChannel_of_usable splitCheck_passes_usable hs']
  rfl

/-- REQUANT then REORDER on all channels. -/
def State.afterFront (s : State) : State := onChannels reorderEffect (onChannels requantEffect s)

/-- ANTIALIAS, IMDCT, FREQINV, SYNTH on all channels, one after the other. -/
def State.afterBack (s : State) : State :=
  onChannels synthEffect (onChannels freqinvEffect (onChannels imdctEffect (onChannels antialiasEffect s)))

theorem onChannels_frontEffect (s : State) : onChannels frontEffect s = s.afterFront :=
  onChannels_thenEffect requantEffect_own reorderEffect_own.withPcm s

theorem onChannels_backEffect (s : State) : onChannels backEffect s = s.afterBack := by
  have himdct := antialiasEffect_own.thenEffect imdctEffect_own
  rw [backEffect, onChannels_thenEffect (himdct.thenEffect freqinvEffect_own) synthEffect_own,
    onChannels_thenEffect himdct freqinvEffect_own.withPcm,
    onChannels_thenEffect antialiasEffect_own imdctEffect_own.withPcm]
  rfl

section

variable {s : State} (hs : StreamUsable s)

include hs

theorem backendFront_of_usable : backendFront s.channels (.ok s) = .ok s.afterFront := by
  rw [← onChannels_frontEffect]
  exact foldl_of_usable frontEffect_writesOnly (fun _ _ => frontStep_of_usable) hs

theorem backendBack_of_usable : backendBack s.channels (.ok s) = .ok s.afterBack := by
  rw [← onChannels_backEffect]
  exact foldl_of_usable backEffect_writesOnly (fun _ _ => backStep_of_usable) hs

theorem backendBody_of_usable : backendBody s = .ok (stereoStep s.afterFront).afterBack := by
  have hfront : s.afterFront.blank arrays = s.blank arrays :=
    (onChannels_blank (reorderEffect_writesOnly rfl) _).trans (onChannels_blank (requantEffect_writesOnly rfl) s)
  have hstereo : (stereoStep s.afterFront).blank arrays = s.blank arrays := (stereoStep_blank _).trans hfront
  rw [backendBody, backendFront_of_usable hs, CmdResult.andThen, stereoBody_of_usable (hs.of_blank_eq hfront),
    ← channels_of_blank_eq hstereo, backendBack_of_usable (hs.of_blank_eq hstereo)]

end

theorem status_of_blank_eq {p : Parts} {s t : State} (h : t.blank p = s.blank p) (hf : p.flags = false)
    (hs : p.spectrum = false) : t.status = s.status := by
  have hblank := congrArg State.status h
  simp only [State.blank, hf, hs, Bool.false_eq_true, if_false] at hblank
  exact hblank

/-- The steps of BACKEND leave `STATUS` to the end of the command (60_exceptions.md R230). -/
theorem backendBody_status (s : State) : (backendBody s).left.status = s.status :=
  status_of_blank_eq (commandBody_blank .backend s) rfl rfl

/-- Settles O59: the checks of every step pass, and the order by channels is as good as the order by steps. -/
theorem backendRunsItsSteps : Obligations.BackendRunsItsSteps := by
  intro s htables hsplits
  have hs : StreamUsable s := fun c hc => ⟨htables, splitUsable_of_splitsOk htables hsplits hc⟩
  have hrequant := hs.onChannels (requantEffect_writesOnly rfl)
  have hreorder := hrequant.onChannels (reorderEffect_writesOnly rfl)
  have hstereo := hreorder.of_blank_eq (stereoStep_blank _)
  have hantialias := hstereo.onChannels (antialiasEffect_writesOnly rfl)
  have himdct := hantialias.onChannels (imdctEffect_writesOnly rfl rfl)
  have hfreqinv := himdct.onChannels (freqinvEffect_writesOnly rfl)
  refine ⟨_, _, _, _, _, _, _, exec_onChannels (fun _ => rfl) requantCheck_passes_usable hs,
    exec_onChannels_endDone (fun _ => rfl) reorderCheck_passes_usable reorderEffect_own.withPcm hrequant,
    exec_stereo_endDone hreorder,
    exec_onChannels_endDone (fun _ => rfl) splitCheck_passes_usable antialiasEffect_own.withPcm hstereo,
    exec_onChannels_endDone (fun _ => rfl) splitCheck_passes_usable imdctEffect_own.withPcm hantialias,
    exec_onChannels_endDone (fun _ => rfl) noCheck_passes_usable freqinvEffect_own.withPcm himdct,
    exec_onChannels_endDone (fun _ => rfl) noCheck_passes_usable synthEffect_own hfreqinv, ?_, ?_⟩
  · rw [exec_eq_finish, commandBody, backendBody_of_usable hs, finish_ok]
    rfl
  · have hstatus := backendBody_status s
    rw [backendBody_of_usable hs] at hstatus
    exact congrArg (fun st => { st with busy := false, done := true }) hstatus

/-- REQUANT's check ends BACKEND at a channel whose tables are unusable. -/
theorem backendFront_fails {s : State} {c : Ch} (rest : List Ch) (h : tablesUnusable s c) :
    backendFront (c :: rest) (.ok s) = .err (outOfRange s c.isOne) s := by
  rw [backendFront, List.foldl_cons, CmdResult.andThen, oneChannel, requantCheck_fails h]
  exact backendFront_err rest _ s

/-- OutOfRange raised where earlier steps have written, beside `DONE` of these steps run as commands. -/
theorem endError_outOfRange_eq {s t : State} (hstatus : t.status = s.status) (hcursor : t.bitpos = s.bitpos) (ch : Bool) :
    t.endError (outOfRange t ch) = { t.endDone with status := errorStatus s 2, errinfo := errInfo 0 ch s.bitpos } := by
  simp [endError_outOfRange, failed, errorStatus, hstatus, hcursor]

/-- Settles O60: channel 0 passes REQUANT and REORDER, and the check of REQUANT on channel 1 fails. -/
theorem backendKeepsEarlierSteps : Obligations.BackendKeepsEarlierSteps := by
  intro s htables hmode hlong hmixed hsplit
  have hlegal (u : State) : channelsLegal u false .c0 = true := by simp [channelsLegal_iff]
  have h0 : TablesUsable s .c0 := ⟨htables, splitUsable_of_not_mixed hlong⟩
  have h0' : TablesUsable (requantEffect s .c0) .c0 :=
    h0.of_blank_eq (requantEffect_writesOnly (p := arrays) rfl s .c0)
  have hblank := frontEffect_writesOnly s .c0
  have h1 : tablesUnusable (frontEffect s .c0) .c1 :=
    .inr ((splitUsable_of_blank_eq hblank .c1).trans (not_splitUsable hmixed (.inr hsplit)))
  have hfront : backendFront s.channels (.ok s) = .err (outOfRange (frontEffect s .c0) true) (frontEffect s .c0) := by
    rw [show s.channels = [.c0, .c1] from if_neg hmode, backendFront, List.foldl_cons, frontStep_of_usable h0]
    exact backendFront_fails [] h1
  have hstatus : (frontEffect s .c0).status = s.status := status_of_blank_eq hblank rfl rfl
  have hcursor : (frontEffect s .c0).bitpos = s.bitpos := (State.cursor_of_blank_eq hblank rfl).1
  refine ⟨_, _, exec_single rfl requantCheck_passes_usable (hlegal s) h0,
    exec_single_endDone (fun _ => rfl) reorderCheck_passes_usable reorderEffect_own.withPcm (hlegal _) h0', ?_⟩
  rw [exec_eq_finish, commandBody, backendBody, hfront, CmdResult.andThen, backendBack_err, finish_err,
    endError_outOfRange_eq hstatus hcursor, frontEffect_eq]

end Sys2Proof.Machine

/-! ## Overrun, interrupt output, isolation, UnexpectedEOF (60_exceptions.md R233, R235, R236, R241) -/

namespace Sys2Proof.Machine

open Claims

/-! ### Overrun and the interrupt output (60_exceptions.md R235, R236) -/

/-- A busy block makes an access that lands before the command ends. -/
theorem step_of_busy_access {s : State} {a : Access} {rest : List HostEvent} (hbusy : s.status.busy = true)
    (hinbox : s.inbox = .access true a :: rest) : step s = hostAccess a { s with inbox := rest } := by
  simp [step, blockStep, hinbox, HostEvent.lands, hbusy, hostEvent]

/-- An access that 70_reset_and_hazards.md R255 allows is made, whether a command is running or not. -/
theorem hostAccess_of_busyAllowed {a : Access} (s : State) (hlegal : a.legal = true) (hallowed : busyAllowed a = true) :
    hostAccess a s = .next (s.access a) := by
  simp [hostAccess, hlegal, hallowed]

/-- Settles O7: the write lands, R255 allows it, and on a busy block it is an overrun. -/
theorem commandOverrun : Obligations.CommandOverrun := by
  intro s w rest hbusy hinbox
  rw [step_of_busy_access hbusy hinbox, hostAccess_of_busyAllowed _ rfl rfl, access_writeCmd]
  exact congrArg Host.Outcome.next (if_pos hbusy)

theorem irq_eq_irqEn {s : State} (h : s.status.done = true ∨ s.status.err = true) : s.irq = s.irqEn := by
  obtain h | h := h <;> simp [State.irq, h]

/-- Settles O12: a command ends with `DONE` or `ERR` and keeps `IRQ_EN`; either write clears one side of the output. -/
theorem interruptAfterCommand : Obligations.InterruptAfterCommand := by
  refine ⟨fun i s t h => ?_, fun s => ?_, fun s => ?_⟩
  · obtain ⟨hirqEn, -⟩ := commandsKeepHostOwnedState i s t h
    obtain ⟨t', h', -, hend⟩ := commandEndsWithDoneOrError i s
    obtain rfl : t = t' := Host.Outcome.next.inj (h.symm.trans h')
    exact (irq_eq_irqEn (hend.imp And.left And.left)).trans hirqEn
  · rw [access_writeStatus, State.irq, writeStatus_status]
    simp
  · have hwrite : s.access (.write .word 0x000 0x0) = s.writeCtrl 0 := rfl
    rw [hwrite, writeCtrl_of_no_reset s rfl]
    rfl

/-! ### No host access tells anything about the internal arrays (60_exceptions.md R241)

Hiding the arrays before an access or after it comes to the same. -/

theorem hostByte_hide (s : State) (a : Nat) : (hide s).hostByte a = s.hostByte a :=
  hostByte_congr (fun _ => rfl) (fun _ => by cases sfChannel a <;> rfl) (fun _ => rfl) (fun _ => rfl)
    (fun _ => by cases isiChannel a <;> rfl)

theorem busRead_hide (s : State) (a n : Nat) : (hide s).busRead a n = s.busRead a n := by
  simp only [State.busRead, hostByte_hide]

theorem writeCtrl_hide (s : State) (w : Word) : (hide s).writeCtrl w = hide (s.writeCtrl w) := by
  unfold State.writeCtrl
  split <;> rfl

theorem writeStatus_hide (s : State) (w : Word) : (hide s).writeStatus w = hide (s.writeStatus w) := by
  unfold State.writeStatus
  split <;> rfl

theorem writeReg_hide (s : State) (a : Nat) (w : Word) : (hide s).writeReg a w = hide (s.writeReg a w) := by
  unfold State.writeReg
  split
  case h_1 => exact writeCtrl_hide s w
  case h_2 => exact writeStatus_hide s w
  case h_3 => exact (apply_ite hide (s.status.busy = true) s.overrun (s.startCommand w)).symm
  all_goals rfl

theorem chan_hide_sf (s : State) (ch : Ch) : ((hide s).chan ch).sf = (s.chan ch).sf := by
  cases ch <;> rfl

theorem chan_hide_isi (s : State) (ch : Ch) : ((hide s).chan ch).isi = (s.chan ch).isi := by
  cases ch <;> rfl

theorem setSf_hide (s : State) (ch : Ch) (v : Vector Byte 58) : (hide s).setSf ch v = hide (s.setSf ch v) := by
  cases ch <;> rfl

theorem setIsi_hide (s : State) (ch : Ch) (v : Vector Half 576) : (hide s).setIsi ch v = hide (s.setIsi ch v) := by
  cases ch <;> rfl

theorem writeByte_hide (s : State) (a : Nat) (b : Byte) : (hide s).writeByte a b = hide (s.writeByte a b) := by
  cases hr : regionOf a with
  | sf => rw [writeByte_of_sf hr, writeByte_of_sf hr, chan_hide_sf, setSf_hide]
  | isi => rw [writeByte_of_isi hr, writeByte_of_isi hr, chan_hide_isi, setIsi_hide]
  | md =>
    rw [writeByte_of_md hr, writeByte_of_md hr]
    rfl
  | regs => rw [writeByte_of_readOnly (.inl hr), writeByte_of_readOnly (.inl hr)]
  | pcm => rw [writeByte_of_readOnly (.inr (.inl hr)), writeByte_of_readOnly (.inr (.inl hr))]
  | reserved => rw [writeByte_of_readOnly (.inr (.inr hr)), writeByte_of_readOnly (.inr (.inr hr))]

theorem writeBytes_hide (s : State) (a n : Nat) (w : Word) : (hide s).writeBytes a n w = hide (s.writeBytes a n w) :=
  List.foldl_hom hide fun u k => writeByte_hide u (a + k) (byteOf w k)

theorem access_hide (s : State) (a : Access) : (hide s).access a = hide (s.access a) := by
  cases a with
  | read w off =>
    rw [State.access, busRead_hide]
    rfl
  | write w off val =>
    simp only [State.access, State.busWrite]
    split
    · exact writeReg_hide s _ val
    all_goals exact writeBytes_hide s _ _ val

/-- Settles O22: an access is refused by its form and `BUSY`, and its effect commutes with hiding the arrays. -/
theorem hostCannotSeeInternalArrays : Obligations.HostCannotSeeInternalArrays := by
  intro a s s' hs
  have hstatus : s.status = s'.status := (congrArg State.status hs :)
  have haccess : hide (s.access a) = hide (s'.access a) := by rw [← access_hide, hs, access_hide]
  unfold hostAccess
  rw [← hstatus]
  split_ifs
  · exact ⟨fun _ => id, nofun⟩
  · exact ⟨fun _ => id, nofun⟩
  · refine ⟨nofun, fun t ht => ⟨_, rfl, ?_⟩⟩
    rw [← Host.Outcome.next.inj ht, haccess]

/-! ### HUFF that reads out of bounds (60_exceptions.md R233) -/

/-- Loops that end and have latched end HUFF with UnexpectedEOF, after its writes. -/
theorem exec_huff_of_latched_loops {s : State} {ch : Ch} {h : HuffRun} (hlegal : channelsLegal s false ch = true)
    (hcheck : huffCheck s ch = none) (hl : HuffLoops s ch h) (hoob : h.rd.oob = true) :
    exec (.huff ch) s =
      .next ((huffWrite s ch (h.rollBack (s.chan ch).regionEnd)).endError
        { kind := .unexpectedEOF
          info := errInfo (BitVec.ofNat 10 (h.rollBack (s.chan ch).regionEnd).pos) ch.isOne
            (h.rollBack (s.chan ch).regionEnd).rd.bitpos }) := by
  have hlatch : (h.rollBack (s.chan ch).regionEnd).rd.oob = true := hoob
  simp only [exec_huff_eq_finish hlegal, huffBody, hcheck, huffDecode_of_loops hl, hlatch]
  rfl

theorem huffWrite_endError_frame (s : State) (ch : Ch) (h : HuffRun) (e : CmdError) :
    HuffFrame s ((huffWrite s ch h).endError e) ch :=
  huffFrame_of_eq_withHuff (by cases ch <;> rfl)

/-- Settles O37: the loops end with the latch set, and HUFF writes their lines up to the roll-back. -/
theorem huffUnexpectedEof : Obligations.HuffUnexpectedEof := by
  intro s ch h hlegal hbig ht hsplit hl hoob
  obtain ⟨hle, -⟩ := rollBack_pos_of_loops hl hbig (s.chan ch).regionEnd
  refine ⟨_, _, exec_huff_of_latched_loops hlegal (huffCheck_passes hbig ht hsplit) hl hoob, rfl, ?_, fun i => ?_,
    BitVec.toNat_ofNat .., ?_, ?_, huffWrite_endError_frame s ch _ _⟩
  · rw [State.endError_chan, huffWrite_chan]
    exact (BitVec.toNat_ofNat ..).trans (Nat.mod_eq_of_lt (by omega))
  · rw [State.endError_chan, huffWrite_chan]
    exact getElem_lines _ i
  · simp [huffWrite, HuffRun.rollBack, Reader.setTo, hoob, errorStatus, ErrCode.code]
  · rw [State.endError_chan, huffWrite_chan]
    rfl

end Sys2Proof.Machine

namespace Sys2Proof.Machine

open Claims

/-! ## What an error leaves as it was (60_exceptions.md R232)

A command that fails ends with the error its body raised, in the state the body left; so each statement is about what a
body can have written before it raises. -/

/-! ### A body raises an error or not whatever `DONE` was -/

/-- The body ends with an error. -/
def CmdResult.Raises (r : CmdResult) : Prop := ∃ e u, r = .err e u

@[simp] theorem not_raises_ok (u : State) : ¬ (CmdResult.ok u).Raises := fun ⟨_, _, h⟩ => CmdResult.noConfusion h

@[simp] theorem raises_err (e : CmdError) (u : State) : (CmdResult.err e u).Raises := ⟨e, u, rfl⟩

section perChannel

variable {check : State → Ch → Option CmdError} {effect : State → Ch → State}

theorem perChannel_raises_iff {all : Bool} {ch : Ch} {s : State} :
    (perChannel check effect all ch s).Raises ↔
      (channelsLegal s all ch = true → ∃ c ∈ chans s all ch, check s c ≠ none) := by
  obtain ⟨hl, hr⟩ | ⟨hl, e, ⟨c, hc, he⟩, hr⟩ | ⟨hl, hnone, hr⟩ := perChannel_cases check effect all ch s
  · simp [hl, hr]
  · simpa [hl, hr] using ⟨c, hc, by simp [he]⟩
  · simpa [hl, hr] using hnone

/-- A per-channel command raises its error in the state as it was. -/
theorem perChannel_err {all : Bool} {ch : Ch} {s u : State} {e : CmdError}
    (h : perChannel check effect all ch s = .err e u) : u = s := by
  obtain ⟨-, hr⟩ | ⟨-, e', -, hr⟩ | ⟨-, -, hr⟩ := perChannel_cases check effect all ch s <;> rw [hr] at h
  · exact (CmdResult.err.inj h).2.symm
  · exact (CmdResult.err.inj h).2.symm
  · exact CmdResult.noConfusion h

/-- A check that does not read `DONE`. -/
def DoneBlind (check : State → Ch → Option CmdError) : Prop := ∀ s ch, check (clearDone s) ch = check s ch

theorem noCheck_doneBlind : DoneBlind noCheck := fun _ _ => rfl

theorem splitCheck_doneBlind : DoneBlind splitCheck := fun _ ch => by cases ch <;> rfl

theorem requantCheck_doneBlind : DoneBlind requantCheck := fun _ ch => by cases ch <;> rfl

theorem reorderCheck_doneBlind : DoneBlind reorderCheck := requantCheck_doneBlind

theorem huffCheck_doneBlind : DoneBlind huffCheck := fun _ ch => by cases ch <;> rfl

theorem perChannel_raises_clearDone (hc : DoneBlind check) (all : Bool) (ch : Ch) (s : State) :
    (perChannel check effect all ch (clearDone s)).Raises ↔ (perChannel check effect all ch s).Raises := by
  have hlegal : channelsLegal (clearDone s) all ch = channelsLegal s all ch := rfl
  have hchans : chans (clearDone s) all ch = chans s all ch := rfl
  simp only [perChannel_raises_iff, hlegal, hchans, hc s]

end perChannel

/-! HUFF's decode reads the state through `ReadBits` and the band tables. -/

section decode

variable {s s' : State} (hread : readBits s = readBits s')

include hread

theorem decodeCode_congr {α : Type} (table : List (List Bool × α)) (fuel : Nat) (pre : List Bool) (r : Reader) :
    decodeCode s table fuel pre r = decodeCode s' table fuel pre r := by
  induction fuel generalizing pre r with
  | zero => rfl
  | succ fuel ih => simp only [decodeCode, hread, ih]

theorem decodePair_congr (t : Nat) (r : Reader) : decodePair s t r = decodePair s' t r := by
  simp only [decodePair, decodeCode_congr hread, readEscape, readSign, hread]

theorem decodeQuad_congr (tableB : Bool) (r : Reader) : decodeQuad s tableB r = decodeQuad s' tableB r := by
  simp only [decodeQuad, decodeQuadCode, decodeCode_congr hread, readSign, hread]

theorem pairsLoop_congr {c : Channel} (hregions : regions s c = regions s' c) (n : Nat) (h : HuffRun) :
    pairsLoop s c n h = pairsLoop s' c n h := by
  induction n generalizing h with
  | zero => rfl
  | succ n ih => simp only [pairsLoop, hregions, decodePair_congr hread, ih]

theorem quadsLoop_congr (c : Channel) (n : Nat) (h : HuffRun) : quadsLoop s c n h = quadsLoop s' c n h := by
  induction n generalizing h with
  | zero => rfl
  | succ n ih => simp only [quadsLoop, decodeQuad_congr hread, ih]

end decode

theorem chan_clearDone (s : State) (ch : Ch) : (clearDone s).chan ch = s.chan ch := by
  cases ch <;> rfl

theorem huffDecode_clearDone (s : State) (ch : Ch) : huffDecode (clearDone s) ch = huffDecode s ch := by
  have hread : readBits (clearDone s) = readBits s := rfl
  simp only [huffDecode, chan_clearDone, pairsLoop_congr hread rfl, quadsLoop_congr hread]
  rfl

theorem huffBody_raises_clearDone (s : State) (ch : Ch) : (huffBody (clearDone s) ch).Raises ↔ (huffBody s ch).Raises := by
  simp only [huffBody, huffCheck_doneBlind s ch, huffDecode_clearDone, chan_clearDone]
  split
  · simp
  · split
    · simp
    · split_ifs <;> simp

theorem stereoBody_raises_iff (s : State) : (stereoBody s).Raises ↔ s.chMode = 1 ∧ stereoOutOfRange s = true := by
  unfold stereoBody
  split_ifs <;> simp_all

/-! ### BACKEND fails only before it reaches PREV, V and PCM -/

theorem tablesUsable_or_tablesUnusable (s : State) (c : Ch) : TablesUsable s c ∨ tablesUnusable s c := by
  unfold TablesUsable tablesUnusable
  cases s.tablesOk <;> cases splitUsable s c <;> simp

/-- REQUANT's check has passed on every channel where the first steps of BACKEND end well. -/
theorem backendFront_ok {l : List Ch} {s u : State} (h : backendFront l (.ok s) = .ok u) : ∀ c ∈ l, TablesUsable s c := by
  induction l generalizing s with
  | nil => exact nofun
  | cons c l ih =>
    obtain hc | hc := tablesUsable_or_tablesUnusable s c
    · rw [backendFront, List.foldl_cons, frontStep_of_usable hc] at h
      exact List.forall_mem_cons.mpr ⟨hc, fun c' hc' => (ih h c' hc').of_blank_eq (frontEffect_writesOnly s c).symm⟩
    · rw [backendFront_fails l hc] at h
      exact CmdResult.noConfusion h

/-- Where the tables are unusable for some channel, BACKEND ends with an error of its first steps. -/
theorem backendBody_of_not_usable {s : State} (hs : ¬ StreamUsable s) :
    ∃ e u, backendFront s.channels (.ok s) = .err e u ∧ backendBody s = .err e u := by
  cases hf : backendFront s.channels (.ok s) with
  | ok u => exact absurd (backendFront_ok hf) hs
  | err e u => exact ⟨e, u, rfl, by rw [backendBody, hf, CmdResult.andThen, backendBack_err]⟩

theorem backendBody_raises_iff {s : State} : (backendBody s).Raises ↔ ¬ StreamUsable s := by
  by_cases hs : StreamUsable s
  · simp [backendBody_of_usable hs, hs]
  · obtain ⟨e, u, -, hbody⟩ := backendBody_of_not_usable hs
    simp [hbody, hs]

theorem backendBody_raises_clearDone (s : State) : (backendBody (clearDone s)).Raises ↔ (backendBody s).Raises := by
  have hblank : (clearDone s).blank { flags := true } = s.blank { flags := true } := rfl
  rw [backendBody_raises_iff, backendBody_raises_iff]
  exact not_congr ⟨fun h => h.of_blank_eq hblank.symm, fun h => h.of_blank_eq hblank⟩

/-- An error of BACKEND leaves everything but `XR` as it was. -/
theorem backendBody_err_blank {p : Parts} (hx : p.xr = true) {s u : State} {e : CmdError} (h : backendBody s = .err e u) :
    u.blank p = s.blank p := by
  obtain ⟨e', u', hfront, hbody⟩ := backendBody_of_not_usable (backendBody_raises_iff.mp ⟨e, u, h⟩)
  obtain ⟨-, rfl⟩ := CmdResult.err.inj (h.symm.trans hbody)
  have hleft := backendFront_blank hx s.channels (.ok s)
  rwa [hfront] at hleft

/-! ### Every command -/

theorem commandBody_raises_clearDone (i : Instr) (s : State) :
    (commandBody i (clearDone s)).Raises ↔ (commandBody i s).Raises := by
  cases i with
  | nop => simp [commandBody]
  | clearhist all ch => exact perChannel_raises_clearDone noCheck_doneBlind all ch s
  | huff ch =>
    have hlegal : channelsLegal (clearDone s) false ch = channelsLegal s false ch := rfl
    simp only [commandBody, hlegal]
    split
    · exact huffBody_raises_clearDone s ch
    · simp
  | requant all ch => exact perChannel_raises_clearDone requantCheck_doneBlind all ch s
  | reorder all ch => exact perChannel_raises_clearDone reorderCheck_doneBlind all ch s
  | stereo => exact (stereoBody_raises_iff (clearDone s)).trans (stereoBody_raises_iff s).symm
  | antialias all ch => exact perChannel_raises_clearDone splitCheck_doneBlind all ch s
  | imdct all ch => exact perChannel_raises_clearDone splitCheck_doneBlind all ch s
  | freqinv all ch => exact perChannel_raises_clearDone noCheck_doneBlind all ch s
  | synth all ch => exact perChannel_raises_clearDone noCheck_doneBlind all ch s
  | silence => simp [commandBody]
  | backend => exact backendBody_raises_clearDone s

/-- A command that fails ends with the error its body raised. -/
theorem endError_of_fails {i : Instr} {s t : State} (hf : Fails i s) (h : exec i s = .next t) :
    ∃ e u, commandBody i s = .err e u ∧ t = u.endError e := by
  have hraises : (commandBody i s).Raises := by
    obtain ⟨t₀, h₀, hdone⟩ := hf
    rw [exec_eq_finish] at h₀
    obtain ⟨u, -, rfl⟩ | ⟨e, u, hbody, -⟩ := finish_next h₀
    · exact absurd hdone (by simp)
    · exact (commandBody_raises_clearDone i s).mp ⟨e, u, hbody⟩
  obtain ⟨e, u, hbody⟩ := hraises
  rw [exec_eq_finish, hbody, finish_err] at h
  exact ⟨e, u, hbody, (Host.Outcome.next.inj h).symm⟩

/-! ### No error changes PREV, V or PCM -/

/-- What a body that raises an error can have written: the spectra of BACKEND's first steps, the results of HUFF
(60_exceptions.md R232), and free values. -/
def writtenOnError : Parts := { xr := true, spectrum := true, draws := true }

theorem commandBody_err_blank {i : Instr} {s u : State} {e : CmdError} (h : commandBody i s = .err e u) :
    u.blank writtenOnError = s.blank writtenOnError := by
  cases i with
  | nop | silence => exact CmdResult.noConfusion h
  | huff ch =>
    have hleft : (commandBody (.huff ch) s).left.blank writtenOnError = s.blank writtenOnError :=
      (congrArg (State.blank { xr := true }) (commandBody_blank (.huff ch) s) :)
    rwa [h] at hleft
  | stereo =>
    have hleft := stereoBody_blank (p := writtenOnError) rfl rfl s
    rwa [show stereoBody s = .err e u from h] at hleft
  | backend => exact backendBody_err_blank rfl h
  | _ => rw [perChannel_err h]

/-- Settles O20: a failing command ends with its body's error, before which nothing has written these arrays. -/
theorem errorsKeepHistoryAndPcm : Obligations.ErrorsKeepHistoryAndPcm := by
  intro i s t hf h
  obtain ⟨e, u, hbody, rfl⟩ := endError_of_fails hf h
  have hblank := commandBody_err_blank hbody
  have hpcm : u.pcm = s.pcm := State.pcm_of_blank_eq hblank rfl
  refine ⟨hpcm, fun ch => ?_⟩
  have hchan := State.chan_blank_eq hblank ch
  rw [State.endError_chan]
  exact ⟨Channel.prev_of_blank_eq hchan rfl, Channel.v_of_blank_eq hchan rfl⟩

/-! ### IllegalCommand and OutOfRange are raised before any write -/

/-- The state with another count of draws (log 10). -/
def State.withDraws (s : State) (n : Nat) : State := { s with draws := n }

/-- The codes of OutOfRange and IllegalCommand (60_exceptions.md R230). -/
def CmdError.Early (e : CmdError) : Prop := e.kind.code = 2 ∨ e.kind.code = 4

/-- HUFF raises its other errors with the codes 1 and 3. -/
theorem huffBody_err_early {s u : State} {ch : Ch} {e : CmdError} (h : huffBody s ch = .err e u) (he : e.Early) :
    u = s := by
  unfold huffBody at h
  split at h
  · exact (CmdResult.err.inj h).2.symm
  · split at h
    · obtain ⟨rfl, -⟩ := CmdResult.err.inj h
      exact absurd he (by simp [CmdError.Early, ErrCode.code])
    · dsimp only at h
      split_ifs at h
      obtain ⟨rfl, -⟩ := CmdResult.err.inj h
      exact absurd he (by simp [CmdError.Early, ErrCode.code])

theorem stereoBody_err {s u : State} {e : CmdError} (h : stereoBody s = .err e u) : u = s.withDraws (s.draws + 1) := by
  unfold stereoBody at h
  split_ifs at h
  exact (CmdResult.err.inj h).2.symm

/-- A command other than BACKEND raises IllegalCommand or OutOfRange in the state as it was, but for the draws. -/
theorem commandBody_err_early {i : Instr} {s u : State} {e : CmdError} (hi : i ≠ .backend)
    (h : commandBody i s = .err e u) (he : e.Early) : ∃ n, u = s.withDraws n := by
  cases i with
  | nop | silence => exact CmdResult.noConfusion h
  | huff ch =>
    simp only [commandBody] at h
    split_ifs at h
    · exact ⟨_, huffBody_err_early h he⟩
    · exact ⟨_, (CmdResult.err.inj h).2.symm⟩
  | stereo => exact ⟨_, stereoBody_err h⟩
  | backend => exact absurd rfl hi
  | _ => exact ⟨_, perChannel_err h⟩

theorem readReg_endError (s : State) (e : CmdError) {a : Nat} (hstatus : a ≠ 0x004) (hinfo : a ≠ 0x00C) :
    (s.endError e).readReg a = s.readReg a := by
  unfold State.readReg
  split
  case h_2 => exact absurd rfl hstatus
  case h_4 => exact absurd rfl hinfo
  all_goals rfl

/-- An error shows in `STATUS` and `ERRINFO` only. -/
theorem endError_sameBytes (s : State) (e : CmdError) :
    SameBytes s (s.endError e) (fun a => statusBytes a ∨ errinfoBytes a) := by
  intro a ha
  simp only [statusBytes, errinfoBytes] at ha
  refine hostByte_congr (fun _ => readReg_endError s e (by omega) (by omega)) (fun _ => ?_) (fun _ => rfl) (fun _ => rfl)
    (fun _ => ?_)
  · rw [State.endError_chan]
  · rw [State.endError_chan]

theorem hostByte_withDraws (s : State) (n a : Nat) : (s.withDraws n).hostByte a = s.hostByte a :=
  hostByte_congr (fun _ => rfl) (fun _ => by cases sfChannel a <;> rfl) (fun _ => rfl) (fun _ => rfl)
    (fun _ => by cases isiChannel a <;> rfl)

/-- Settles O21: the error is raised in the state as it was, and its end writes `STATUS` and `ERRINFO`. -/
theorem earlyErrorsWriteNothing : Obligations.EarlyErrorsWriteNothing := by
  intro i s t hi hf h hcode
  obtain ⟨e, u, hbody, rfl⟩ := endError_of_fails hf h
  obtain ⟨n, rfl⟩ := commandBody_err_early hi hbody hcode
  exact ⟨rfl, fun a ha => (endError_sameBytes _ e a ha).trans (hostByte_withDraws s n a)⟩

end Sys2Proof.Machine

/-! ## Reset and the busy hazard (70_reset_and_hazards.md R250, R251, R255) -/

namespace Sys2Proof.Machine

/-! ### Which accesses a busy block makes -/

/-- Among the accesses of legal width, R255 allows three reads and the writes of `CTRL`, `STATUS` and `CMD`. -/
theorem busyAllowed_iff_of_legal {a : Access} (hlegal : a.legal = true) :
    busyAllowed a = true ↔
      a ∈ [Access.read .word 0x000, .read .word 0x004, .read .word 0x00C] ∨
        ∃ w, a = .write .word 0x000 w ∨ a = .write .word 0x004 w ∨ a = .write .word 0x008 w := by
  cases a with
  | read w off =>
    constructor
    · intro h
      have hoff : off.toNat = 0x000 ∨ off.toNat = 0x004 ∨ off.toNat = 0x00C := of_decide_eq_true h
      obtain rfl : w = .word := word_of_accessOk_regs hlegal (by omega)
      simpa [BitVec.toNat_eq] using hoff
    · rintro (h | ⟨_, h⟩)
      · simp only [List.mem_cons, List.not_mem_nil, or_false] at h
        obtain h | h | h := h <;> cases h <;> rfl
      · simp at h
  | write w off val =>
    constructor
    · intro h
      have hoff : off.toNat = 0x000 ∨ off.toNat = 0x004 ∨ off.toNat = 0x008 := of_decide_eq_true h
      obtain rfl : w = .word := word_of_accessOk_regs hlegal (by omega)
      exact .inr ⟨val, by simpa [BitVec.toNat_eq] using hoff⟩
    · rintro (h | ⟨_, h⟩)
      · simp at h
      · obtain h | h | h := h <;> cases h <;> rfl

theorem hostAccess_of_busyHazard {a : Access} {s : State} (hbusy : s.status.busy = true) (hlegal : a.legal = true)
    (hazard : busyAllowed a = false) : hostAccess a s = .refused .busyHazard := by
  simp [hostAccess, hlegal, hbusy, hazard]

/-- Settles O8: a busy block makes what R255 allows and refuses the rest. -/
theorem busyHazardsAreRefused : Obligations.BusyHazardsAreRefused := by
  intro s a hbusy hlegal
  have hallowed := busyAllowed_iff_of_legal hlegal
  refine ⟨fun hread => ?_, fun w hwrite => ?_, fun hread hwrite => ?_⟩
  · exact hostAccess_of_busyAllowed s hlegal (hallowed.mpr (.inl hread))
  · exact hostAccess_of_busyAllowed s hlegal (hallowed.mpr (.inr ⟨w, hwrite.imp_right .inl⟩))
  · refine hostAccess_of_busyHazard hbusy hlegal (eq_false_of_ne_true fun h => ?_)
    obtain h | ⟨w, h⟩ := hallowed.mp h
    · exact hread h
    · obtain ⟨hctrl, hstatus, hcmd⟩ := hwrite w
      exact h.elim hctrl (Or.elim · hstatus hcmd)

/-! ### Hardware reset -/

@[simp] theorem State.reset_chan (ch : Ch) : State.reset.chan ch = Channel.reset := by
  cases ch <;> rfl

/-- A hardware reset takes effect when it comes, busy or not (log 17). -/
theorem step_of_hardReset {s : State} {rest : List HostEvent} (hinbox : s.inbox = .hardReset :: rest) :
    step s = .next ({ s with inbox := rest } : State).hardReset := by
  simp [step, blockStep, hinbox, HostEvent.lands, hostEvent]

/-- After a hardware reset no main-data byte is a written one (log 9). -/
theorem State.hardReset_mdByte (s : State) (k : Nat) :
    s.hardReset.mdByte k = Config.mdReset (s.draws + 1) (0x1000 + k) := rfl

/-- Settles O13: every register and array is 0 by definition, and a hardware reset lands at once. -/
theorem resetValues : Obligations.ResetValues := by
  refine ⟨fun ch => ?channel, fun n => ?pcm, rfl, rfl, rfl, rfl, rfl, rfl, rfl, rfl, fun w => ?isillS, rfl, fun k => rfl,
    fun s rest hinbox => ?hardReset⟩
  case channel =>
    rw [State.reset_chan]
    refine ⟨rfl, rfl, rfl, rfl, rfl, fun _ => ?_, fun _ => ?_, fun _ => ?_, fun _ _ => ?_, fun _ => ?_⟩
    all_goals simp [Channel.reset]
  case pcm | isillS => simp [State.reset]
  case hardReset => exact ⟨_, step_of_hardReset hinbox, rfl, State.hardReset_mdByte _, Nat.lt_succ_self _⟩

/-! ### Soft reset -/

/-- An access flagged to come before the command ends is the next step of a busy block and of an idle one. -/
theorem step_of_landing_access {s : State} {a : Access} {rest : List HostEvent}
    (hinbox : s.inbox = .access true a :: rest) : step s = hostAccess a { s with inbox := rest } := by
  cases hbusy : s.status.busy with
  | false => exact step_of_idle_access hbusy hinbox
  | true => exact step_of_busy_access hbusy hinbox

theorem access_writeCtrl (s : State) (w : Word) : s.access (.write .word 0x000 w) = s.writeCtrl w := rfl

/-- A soft reset keeps `MD`, the bytes nothing has written included (R251; log 9). -/
theorem State.softReset_mdByte (s : State) (k : Nat) : s.softReset.mdByte k = s.mdByte k := rfl

/-- Settles O14: R255 allows the write, busy or not, and bit 1 makes it a soft reset. -/
theorem softResetKeepsOnlyMainData : Obligations.SoftResetKeepsOnlyMainData := by
  intro s w rest hreset hinbox
  refine ⟨({ s with inbox := rest } : State).softReset, ?_, rfl, State.softReset_mdByte _⟩
  rw [step_of_landing_access hinbox, hostAccess_of_busyAllowed _ rfl rfl, access_writeCtrl, writeCtrl_of_reset _ hreset]

/-! ### The invariant after reset -/

/-- Settles O15: what the invariant speaks of is the same in the reset state and after a hardware reset. -/
theorem resetMeetsInvariant : Obligations.ResetMeetsInvariant :=
  State.reset.hardReset_inv.of_held_eq rfl

end Sys2Proof.Machine
